-- ==== Sys2Proof/Word.lean ====
section
/-! DEFINITION. The word types of the protocol engine block (00_scope.md R11). -/

namespace Sys2Proof

/-- `u8`: one radio register, one frame byte, one 8-bit host register (R11). -/
abbrev Byte := BitVec 8

/-- `u16`: one header field, one 16-bit host register (R11). -/
abbrev Half := BitVec 16

/-- `u24`: the carrier value `frf` (R11, R69). -/
abbrev Carrier := BitVec 24

end Sys2Proof
end

