-- ==== Sys2Proof/Config.lean ====
section
/-! DEFINITION. Fixed constants (00_scope.md R9), implementation parameters (R10), and the free values the spec
leaves open. A configuration is fixed before the PE leaves reset and never changes (R12); a state carries it as a
read-only component (notes/assumptions/3.md). -/

namespace Sys2Proof

/-- P_HDR_ORDER: the order of the two bytes of a header field on air (R48). -/
inductive HdrOrder where
  | big
  | little
deriving DecidableEq, Repr

/-- P_HOST_PID: the packet_id of a host Acknowledge or Broadcast (R10, R116). -/
inductive HostPid where
  | zero
  | draw
deriving DecidableEq, Repr

/-- The bit positions in RegIrqFlags that R65 makes parameters: IRQ_TXDONE_BIT, IRQ_RXDONE_BIT, IRQ_HOP_BIT and
IRQ_CRC_BIT. -/
structure IrqBits where
  txDone : Fin 8
  rxDone : Fin 8
  hop    : Fin 8
  crc    : Fin 8
deriving DecidableEq, Repr

namespace IrqBits

/-- The defaults of R65, the ones the opcode table is written for. -/
def default : IrqBits := { txDone := 3, rxDone := 6, hop := 1, crc := 5 }

/-- Every flag of R65 has a bit of its own: the four parameters and the fixed bits 7, 4, 2 and 0
(DEDUCED, notes/assumptions/16.md). -/
abbrev distinct (b : IrqBits) : Prop := [b.txDone, b.rxDone, b.hop, b.crc, 7, 4, 2, 0].Nodup

/-- The register byte with this one bit set. -/
def mask (i : Fin 8) : Byte := BitVec.twoPow 8 i.val

end IrqBits

/-- The parameters of R10, with P_PE_BASE of R54 and the bit positions of R65. -/
structure Config where
  /-- P_NODE_ID. -/
  nodeId       : Half
  /-- P_FTAB: 64 entries, each empty or a frequency in Hz below 2^32 (R10, R47). -/
  ftab         : Vector (Option (BitVec 32)) 64
  /-- P_DEBUG: whether the log trace is visible outside (R181). -/
  debug        : Bool
  /-- P_ALLOW20: no rule reads it (R10). -/
  allow20      : Bool
  /-- P_FXOSC in Hz: a natural number, 0 not excluded (notes/assumptions/27.md). -/
  fxosc        : Nat
  /-- P_HDR_ORDER. -/
  hdrOrder     : HdrOrder
  /-- P_HOST_PID. -/
  hostPid      : HostPid
  /-- P_TXC_ON_REQUEST (R120). -/
  txcOnRequest : Bool
  /-- P_QDEPTH, 1..255. -/
  qdepth       : Nat
  /-- P_LFMODE: bit 3 of RegOpMode (R95). -/
  lfMode       : BitVec 1
  /-- P_PE_BASE (R54). -/
  peBase       : Nat
  /-- IRQ_TXDONE_BIT, IRQ_RXDONE_BIT, IRQ_HOP_BIT, IRQ_CRC_BIT (R65). -/
  irqBits      : IrqBits
deriving DecidableEq, Repr

namespace Config

/-- The range R10 gives P_QDEPTH, 1..255, and a bit for each flag (R65). -/
abbrev wf (c : Config) : Prop := 1 ≤ c.qdepth ∧ c.qdepth ≤ 255 ∧ c.irqBits.distinct

/-- HDR_LEN (R9). -/
abbrev hdrLen : Nat := 8
/-- MAX_PAYLOAD (R9). -/
abbrev maxPayload : Nat := 240
/-- MAX_FRAME (R9). -/
abbrev maxFrame : Nat := 248
/-- FIFO_SIZE (R9). -/
abbrev fifoSize : Nat := 256
/-- N_FTAB (R9). -/
abbrev nFtab : Nat := 64
/-- FSTEP_SHIFT (R9): one carrier step is P_FXOSC / 2^19 Hz. -/
abbrev fstepShift : Nat := 19
/-- RSSI_OFFSET in dBm (R9). -/
abbrev rssiOffset : Int := -157
/-- NO_REQUEST: the packet_id that means that no request is outstanding (R9). -/
abbrev noRequest : Half := 0#16

/-- FREE VALUE (notes/assumptions/4.md): the n-th draw of draw_pid, less one. R10: "any value in 1..65535, under no
law". No body: nothing can be proved of a value of it beyond its bound. -/
opaque freeDraw : Nat → Fin 65535

/-- FREE VALUE (notes/assumptions/6.md): whether a line rises where R190 calls it unspecified. -/
opaque freeEdge : Nat → Bool

/-- FREE VALUE (notes/assumptions/27.md): the quotient of R108 for a table entry when P_FXOSC is 0, a value R10 does not
exclude and R108 states no result for. -/
opaque freeCarrier : Nat → Nat

/-- The common configuration of 95_test_vectors.md section 0, the one `State.reset` carries
(DESIGN CHOICE, notes/assumptions/3.md): P_FTAB[i] = 915 000 000 + 500 000 i Hz, P_DEBUG = 1, P_QDEPTH 8, and the defaults
R10 and R65 give. Section 0 and R10 give no value for three parameters; these are the model's own: P_NODE_ID = 0,
P_ALLOW20 = false (no rule reads it) and P_PE_BASE = 0 (R54 leaves it to the platform). -/
def testVectors : Config :=
  { nodeId := 0#16
    ftab := Vector.ofFn fun i => some (BitVec.ofNat 32 (915000000 + 500000 * i.val))
    debug := true
    allow20 := false
    fxosc := 32000000
    hdrOrder := .big
    hostPid := .zero
    txcOnRequest := false
    qdepth := 8
    lfMode := 0#1
    peBase := 0
    irqBits := .default }

end Config

end Sys2Proof
end

