-- ==== Sys2Proof/Syntax.lean ====
section
/-! DEFINITION. The operations of the PE: one constructor per row of spec/opcode_table.json (30_encoding.md R74 to R77).
A constructor carries the bits its row's mask leaves free, and nothing else; an operation's other operands (operand
registers, the received frame, the request record) are state. -/

namespace Sys2Proof

/-- One operation of the PE (R4: its "instructions" are the operations it performs in response to an input). -/
inductive Instr where
  -- format CMD (R61): the host command word
  | sendReq                            -- SEND.REQ  (R113)
  | sendAck                            -- SEND.ACK  (R116)
  | sendBcast                          -- SEND.BCAST (R117)
  | modeSleep                          -- MODE.SLEEP (R88)
  | modeStdby                          -- MODE.STDBY (R89)
  | modeTx                             -- MODE.TX (R90)
  | modeRxc                            -- MODE.RXC (R91)
  | modeRxs                            -- MODE.RXS (R92)
  | modeCad                            -- MODE.CAD (R93)
  -- format HOSTREG: the offset of an 8-bit host write
  | evqPop                             -- EVQ.POP (R136)
  -- format IRQ (R75): the snapshot of RegIrqFlags
  | irqTxdone (snap : Byte)            -- IRQ.TXDONE (R142)
  | irqRxdone (snap : Byte)            -- IRQ.RXDONE (R143)
  | irqHop (snap : Byte)               -- IRQ.HOP (R144)
  | irqNone (snap : Byte)              -- IRQ.NONE (R145)
  -- format RXSEL (R76): selected inside IRQ.RXDONE
  | rxCrcerr (low : BitVec 17)         -- RX.CRCERR (R123); bits [16:0] select nothing
  | rxShort (low : Half)               -- RX.SHORT (R124); bits [15:0] select nothing
  | rxReq                              -- RX.REQ (R125)
  | rxAck                              -- RX.ACK (R128)
  | rxBcast                            -- RX.BCAST (R129)
  | rxUnsupported (kind : Half)        -- RX.UNSUPPORTED (R130), packet_kind 3..65535
  -- format CURKIND (R77): selected inside IRQ.TXDONE
  | txdoneReq                          -- TXDONE.REQ (R120)
  | txdoneAck                          -- TXDONE.ACK (R121)
  | txdoneBcast                        -- TXDONE.BCAST (R121)
  | txdoneNone (low : BitVec 2)        -- TXDONE.NONE (R122); bits [1:0] select nothing
  -- format TIMER (R77): an attempt-timer expiry
  | timerRetry                         -- TIMER.RETRY (R133)
  | timerFinal                         -- TIMER.FINAL (R134)
deriving DecidableEq, Repr

end Sys2Proof
end

