-- ==== Sys2Proof/Machine/State.lean ====
section
/-! DEFINITION. The machine's state as plain data: the PE's fields (10_state.md R14 to R29), the abstract radio state kept
next to them (R38), the observable access trace (R60), the configuration it runs under (R12), and the model's own fields.
`State.reset` is the table of R39. -/

namespace Sys2Proof.Machine

/-- The three kinds of frame (R18, R64). NONE is `none` of `Option Kind`. -/
inductive Kind where
  | req
  | ack
  | bcast
deriving DecidableEq, Repr

/-- The six modes a request may name (R86). UNKNOWN (R15) is `none` of `Option RadioMode`. -/
inductive RadioMode where
  | sleep
  | standby
  | tx
  | rxc
  | rxs
  | cad
deriving DecidableEq, Repr

/-- `s.eng` (R14). -/
inductive Eng where
  | idle
  | awTx
  | awAck
  | done
deriving DecidableEq, Repr

/-- One element of `s.route` (R23). -/
inductive RouteCode where
  | unknown
  | none
  | txdone
  | rxdone
  | hop
deriving DecidableEq, Repr

/-- `s.route` (R23). -/
structure Route where
  line0 : RouteCode
  line1 : RouteCode
deriving DecidableEq, Repr

/-- The sticky fault codes of the PE (R33). `clear` is code 0. -/
inductive PeFault where
  | clear
  | callerError
  | reservedCommand
  | ftabUnwritten
  | frfOverflow
  | hostAccess
deriving DecidableEq, Repr

/-- The RESULT codes (R32). -/
inductive SendResult where
  | none
  | busy
  | success
  | timedOut
  | sent
  | payloadTooLarge
deriving DecidableEq, Repr

/-- The types of event record (R24). -/
inductive EvType where
  | requestReceived
  | broadcastReceived
  | transmitComplete
deriving DecidableEq, Repr

/-- One event record (R24): snr_q in quarter dB and rssi_c in hundredths of a dBm, both two's complement. -/
structure EvRecord where
  type  : EvType
  data  : List Byte
  snrQ  : Byte
  rssiC : Half
deriving DecidableEq, Repr

/-- The log codes (R183). -/
inductive LogCode where
  | malformedShort
  | malformedCrc
  | unsupportedKind
  | unrecognizedIrq
  | requestTimedOut
  | spuriousTxdone
deriving DecidableEq, Repr

/-- One entry of the log trace (R25, R183). -/
structure LogEntry where
  code : LogCode
  info : Nat
deriving DecidableEq, Repr

/-- The interrupt lines (R28, R161). -/
inductive Line where
  | line0
  | line1
deriving DecidableEq, Repr

/-- The flags RADIO.FLAG sets (R189): bits 7, 2 and 0 of RegIrqFlags. -/
inductive RadioFlag where
  | rxTimeout
  | cadDone
  | cadDetected
deriving DecidableEq, Repr

/-- The radio registers the PE reads with RadioRead (R192). -/
inductive ReadReg where
  | irqFlags
  | hopChannel
  | pktSnrValue
  | pktRssiValue
deriving DecidableEq, Repr

/-- The radio registers the PE writes with RadioWrite (R192). -/
inductive WriteReg where
  | opMode
  | frfMsb
  | frfMid
  | frfLsb
  | irqFlags
  | dioMapping1
deriving DecidableEq, Repr

/-- One event of the observable access trace (R60). A whole-frame FIFO access is one event (R45, R46). -/
inductive Access where
  | read (r : ReadReg) (v : Byte)
  | write (r : WriteReg) (v : Byte)
  | fifoWrite (frame : List Byte)
  | fifoRead (frame : List Byte)
deriving DecidableEq, Repr

/-- One input of the machine (R7, R83): a host access, a radio event, an attempt-timer expiry, the choice of a pending
edge to dispatch, or PE reset. -/
inductive Event where
  /-- An 8-bit host write (R43). -/
  | write8 (offset : BitVec 10) (v : Byte)
  /-- A 16-bit host write (R43). -/
  | write16 (offset : BitVec 10) (v : Half)
  /-- An 8-bit host read (R43). -/
  | read8 (offset : BitVec 10)
  /-- A 16-bit host read (R43). -/
  | read16 (offset : BitVec 10)
  /-- DISPATCH ℓ (R141). -/
  | dispatch (l : Line)
  /-- TIMER.EXPIRE (R191). -/
  | timerExpire
  /-- RADIO.TXDONE (R187). -/
  | radioTxDone
  /-- RADIO.RXDONE (R188); `crcErr` is crc = err. -/
  | radioRxDone (frame : List Byte) (crcErr : Bool) (snr rssi : Byte)
  /-- RADIO.HOP (R189). -/
  | radioHop (ch : Byte)
  /-- RADIO.FLAG (R189). -/
  | radioFlag (f : RadioFlag)
  /-- PE reset (R194). -/
  | peReset
deriving DecidableEq, Repr

/-- The abstract radio state (R38). -/
structure RadioState where
  irq          : Byte
  hopCh        : Byte
  frf          : Carrier
  opmode       : BitVec 3
  dio          : Byte
  txFrame      : List Byte
  transmitting : Bool
  rxFrame      : List Byte
  snrRaw       : Byte
  rssiRaw      : Byte
deriving DecidableEq, Repr

/-- The byte storage of the host register space (R42): PAYLOAD[i] is the byte at offset 0x200 + i (R30). Sparse, in
one canonical form (`Memory.wf`). -/
abbrev Memory := List Host.Cell

/-- What an unlisted byte reads as: its reset contents, 0 (R39; notes/assumptions/17.md). -/
abbrev Memory.unlisted : Byte := 0#8

/-- The first offset of PAYLOAD (R30). -/
abbrev Memory.base : Nat := 0x200

/-- The first offset after PAYLOAD (R30: PAYLOAD[254] is at 0x2FE). -/
abbrev Memory.limit : Nat := 0x2FF

/-- The canonical form: offsets strictly rising, no entry equal to what an unlisted byte reads as, and every entry a
byte of PAYLOAD. -/
abbrev Memory.wf (m : Memory) : Prop :=
  m.Pairwise (fun a b => a.1 < b.1) ∧ ∀ c ∈ m, c.2 ≠ Memory.unlisted ∧ Memory.base ≤ c.1 ∧ c.1 < Memory.limit

/-- The state of one node. -/
structure State where
  /-- The configuration, a parameter of the step (R12); no step writes it. -/
  cfg        : Config
  -- control state (10_state.md section 2)
  eng        : Eng
  mode       : Option RadioMode
  -- flags and bookkeeping (10_state.md section 3)
  avail      : Bool
  outPid     : Half
  curKind    : Option Kind
  opKind     : Option Kind
  reqDst     : Half
  reqPayload : List Byte
  retry      : Byte
  timeout    : Half
  attempt    : Byte
  timerArmed : Bool
  hopIdx     : BitVec 6
  route      : Route
  evq        : List EvRecord
  log        : List LogEntry
  fault      : PeFault
  result     : SendResult
  edge0      : Bool
  edge1      : Bool
  -- host operand registers (R29)
  destReg    : Half
  retryReg   : Byte
  plenReg    : Byte
  timeoutReg : Half
  mem        : Memory
  -- the radio (R38) and the trace of the accesses made to it (R60)
  radio      : RadioState
  trace      : List Access
  -- the model's own fields
  /-- The inputs still to be taken, in order (R7; notes/assumptions/1.md). -/
  script     : List Event
  /-- What the last host read returned, `none` where it returned nothing (notes/assumptions/10.md). -/
  hostData   : Option Half
  /-- The snapshot of the dispatch step being run (R169: local to the step). -/
  snap       : Byte
  /-- How many draws of draw_pid were taken (notes/assumptions/4.md). -/
  draws      : Nat
  /-- How many free edge values were used (notes/assumptions/6.md). -/
  freeUses   : Nat
deriving DecidableEq, Repr

/-- Why a step of the model stops. The PE's own faults are no stops: they are the sticky field `fault` (R176). -/
inductive Fault where
  /-- Raised by `transmitFrame` when it is handed a payload of more than 240 bytes, for which R98 gives no frame and R118
  no effect (its precondition is len ≤ 240). SAFE: no reachable state does it (notes/assumptions/13.md). -/
  | oversizeFrame
deriving DecidableEq, Repr

/-- Why an instruction has no meaning. -/
inductive Refusal where
  /-- Answered by `exec` for an instruction that has no meaning yet. SAFE. No arm uses it. -/
  | notModelled (mnemonic : String)
deriving DecidableEq, Repr

/-- The radio as the boot sequence of R197 leaves it, with the values 95_test_vectors.md section 0 states; the other
fields, which no file of spec/ gives a value, are zero or empty (DESIGN CHOICE, unsafe: notes/assumptions/5.md). -/
def RadioState.afterBoot : RadioState :=
  { irq := 0x00#8
    hopCh := 0x00#8
    frf := 0#24
    opmode := 0b001#3
    dio := 0xFF#8
    txFrame := []
    transmitting := false
    rxFrame := []
    snrRaw := 0#8
    rssiRaw := 0#8 }

/-- Every PE field and host operand register at its value of R39, under a configuration, a radio and the model's own
fields as they are (R194: reset changes neither the radio nor the configuration). -/
def State.pristine (cfg : Config) (radio : RadioState) (trace : List Access) (script : List Event)
    (hostData : Option Half) (snap : Byte) (draws freeUses : Nat) : State :=
  { cfg := cfg
    eng := .idle
    mode := none
    avail := true
    outPid := Config.noRequest
    curKind := none
    opKind := none
    reqDst := 0#16
    reqPayload := []
    retry := 0#8
    timeout := 0#16
    attempt := 0#8
    timerArmed := false
    hopIdx := 0#6
    route := ⟨.unknown, .unknown⟩
    evq := []
    log := []
    fault := .clear
    result := .none
    edge0 := false
    edge1 := false
    destReg := 0#16
    retryReg := 0#8
    plenReg := 0#8
    timeoutReg := 0#16
    mem := []
    radio := radio
    trace := trace
    script := script
    hostData := hostData
    snap := snap
    draws := draws
    freeUses := freeUses }

/-- The machine right after reset (R39), with no input pending. -/
def State.reset : State :=
  State.pristine Config.testVectors RadioState.afterBoot [] [] none 0#8 0 0

end Sys2Proof.Machine
end

