-- ==== Sys2Proof/Machine/Ops.lean ====
section
/-! DEFINITION. The named operations over memory, registers and the radio that every meaning is written with: the primitives
of 00_scope.md R11, the radio contract of R190 with its edge rule, raising a fault (R176), and the entry of a dispatch step
(R141, R169). -/

namespace Sys2Proof.Machine

/-- What a meaning answers. -/
abbrev Result := Host.Outcome State Fault Refusal

/-- A step under way. R170: a step is taken entirely, or up to a fault. -/
inductive Flow where
  /-- The step goes on in this state. -/
  | run (s : State)
  /-- The step has ended in this state: nothing after this point is performed. -/
  | ended (s : State)
  /-- The model stops. -/
  | broken (f : Fault)
deriving DecidableEq, Repr

/-- Goes on with `k` unless the step has ended. -/
def Flow.andThen : Flow → (State → Flow) → Flow
  | .run s, k => k s
  | .ended s, _ => .ended s
  | .broken f, _ => .broken f

/-- A step under way, taken as a whole. -/
def Flow.outcome : Flow → Result
  | .run s => .next s
  | .ended s => .next s
  | .broken f => .fault f

/-! ### Memory (R29, R30, R42) -/

/-- The byte at a host offset. -/
def Memory.read : Memory → Nat → Byte
  | [], _ => Memory.unlisted
  | (k, v) :: rest, a => if k = a then v else Memory.read rest a

/-- Writes one byte and keeps the canonical form: writing what an unlisted byte reads as removes the entry. -/
def Memory.write : Memory → Nat → Byte → Memory
  | [], a, b => if b = Memory.unlisted then [] else [(a, b)]
  | (k, v) :: rest, a, b =>
    if a < k then (if b = Memory.unlisted then (k, v) :: rest else (a, b) :: (k, v) :: rest)
    else if a = k then (if b = Memory.unlisted then rest else (a, b) :: rest)
    else (k, v) :: Memory.write rest a b

/-! ### Faults, log, events, draws (R10, R11, R24, R176, R183) -/

/-- Records a sticky fault: once nonzero it keeps its value until reset (R26). -/
def recordFault (c : PeFault) (s : State) : State :=
  { s with fault := if s.fault = .clear then c else s.fault }

/-- `raise Fault(code)` (R176): records the fault and ends the step; earlier writes of the step stand (R170). -/
def raiseFault (c : PeFault) (s : State) : Flow :=
  .ended (recordFault c s)

/-- `log(code, info)` (R183): appends; nothing removes an entry but reset (R182). -/
def addLog (c : LogCode) (info : Nat) (s : State) : State :=
  { s with log := s.log ++ [⟨c, info⟩] }

/-- `emit Ev(...)` (R24): appends at the tail of the event queue. -/
def emitEvent (r : EvRecord) (s : State) : State :=
  { s with evq := s.evq ++ [r] }

/-- The record a TxDone appends: empty data, snr_q = rssi_c = 0 (R24). -/
def txCompleteRecord : EvRecord :=
  ⟨.transmitComplete, [], 0#8, 0#16⟩

/-- The value of the next draw_pid: any value in 1..65535 (R10; free value, notes/assumptions/4.md). -/
def nextPid (s : State) : Half :=
  BitVec.ofNat 16 ((Config.freeDraw s.draws).val + 1)

/-- Takes the draw. -/
def takeDraw (s : State) : State :=
  { s with draws := s.draws + 1 }

/-! ### The interrupt lines (R161, R190) -/

/-- The level of a line: the radio flag it is mapped to. -/
def lineLevel (b : IrqBits) (l : Line) (dio irq : Byte) : Bool :=
  match l with
  | .line0 =>
    if dio.extractLsb' 6 2 = 0b00#2 then irq.getLsbD b.rxDone
    else if dio.extractLsb' 6 2 = 0b01#2 then irq.getLsbD b.txDone
    else false
  | .line1 => if dio.extractLsb' 4 2 = 0b01#2 then irq.getLsbD b.hop else false

/-- `s.edge[ℓ]`. -/
def State.edge (s : State) : Line → Bool
  | .line0 => s.edge0
  | .line1 => s.edge1

/-- No `set_mode` into TX, RXC or STANDBY has run since reset: the window in which R190 leaves edges unspecified. -/
def State.unrouted (s : State) : Bool :=
  s.route.line0 = .unknown && s.route.line1 = .unknown

/-- Whether a write of `v` to RegDioMapping1 makes a line rise (R190: it also does so by mapping the line to a flag that
is already set). In the unrouted window a flag still set raises the edge whatever mapping survived the reset (R196;
notes/assumptions/8.md). -/
def risesOnRemap (l : Line) (v : Byte) (s : State) : Bool :=
  lineLevel s.cfg.irqBits l v s.radio.irq && (s.unrouted || !lineLevel s.cfg.irqBits l s.radio.dio s.radio.irq)

/-- A flag of the line's is newly set by a radio event: under some mapping the line rises. -/
def mayRise (b : IrqBits) (l : Line) (before after : Byte) : Bool :=
  match l with
  | .line0 =>
    (!before.getLsbD b.rxDone && after.getLsbD b.rxDone) || (!before.getLsbD b.txDone && after.getLsbD b.txDone)
  | .line1 => !before.getLsbD b.hop && after.getLsbD b.hop

/-- Whether a radio event that leaves the radio in state `r` makes a line rise: its level went from 0 to 1 (R190). In the
unrouted window it is unspecified (R190, U8; free value `free`, notes/assumptions/6.md). -/
def risesOnEvent (l : Line) (r : RadioState) (free : Bool) (s : State) : Bool :=
  if s.unrouted then mayRise s.cfg.irqBits l s.radio.irq r.irq && free
  else !lineLevel s.cfg.irqBits l s.radio.dio s.radio.irq && lineLevel s.cfg.irqBits l r.dio r.irq

/-- The free values used up in the unrouted window: one for each line. -/
def State.freeUsesAfter (s : State) : Nat :=
  if s.unrouted then s.freeUses + 2 else s.freeUses

/-- A radio event's effect: the radio's new state, and the edge rule (R187 to R190). A second rise merges (R28). -/
def radioEvent (r : RadioState) (s : State) : State :=
  { s with
    radio := r
    edge0 := s.edge0 || risesOnEvent .line0 r (Config.freeEdge s.freeUses) s
    edge1 := s.edge1 || risesOnEvent .line1 r (Config.freeEdge (s.freeUses + 1)) s
    freeUses := s.freeUsesAfter }

/-! ### Radio accesses (R44 to R46, R190) -/

/-- Appends to the observable trace (R60). -/
def record (a : Access) (s : State) : State :=
  { s with trace := s.trace ++ [a] }

/-- What a readable radio register holds (R190). -/
def radioValue (r : ReadReg) (s : State) : Byte :=
  match r with
  | .irqFlags => s.radio.irq
  | .hopChannel => s.radio.hopCh
  | .pktSnrValue => s.radio.snrRaw
  | .pktRssiValue => s.radio.rssiRaw

/-- `RadioRead(Reg)`: its value is `radioValue`; the read itself only leaves its mark in the trace (R53: no side
effect). -/
def radioRead (r : ReadReg) (s : State) : State :=
  record (.read r (radioValue r s)) s

/-- The effect of a write to RegDioMapping1: the new mapping, and the edges it raises (R190). -/
def remapLines (v : Byte) (s : State) : State :=
  { s with
    radio := { s.radio with dio := v }
    edge0 := s.edge0 || risesOnRemap .line0 v s
    edge1 := s.edge1 || risesOnRemap .line1 v s }

/-- The effect of a radio register write on the state (R190). A RegOpMode write of Sleep keeps every other radio register
and both frames: R184 leaves their survival outside the PE (DESIGN CHOICE, notes/assumptions/28.md). -/
def applyWrite (r : WriteReg) (v : Byte) (s : State) : State :=
  match r with
  | .opMode =>
    { s with radio := { s.radio with
        opmode := v.extractLsb' 0 3
        transmitting := decide (v.extractLsb' 0 3 = 0b011#3) } }
  | .frfMsb => { s with radio := { s.radio with frf := v ++ s.radio.frf.extractLsb' 0 16 } }
  | .frfMid =>
    { s with radio := { s.radio with frf := s.radio.frf.extractLsb' 16 8 ++ v ++ s.radio.frf.extractLsb' 0 8 } }
  | .frfLsb => { s with radio := { s.radio with frf := s.radio.frf.extractLsb' 8 16 ++ v } }
  | .irqFlags => { s with radio := { s.radio with irq := s.radio.irq &&& ~~~v } }
  | .dioMapping1 => remapLines v s

/-- `RadioWrite(Reg, v)`. -/
def radioWrite (r : WriteReg) (v : Byte) (s : State) : State :=
  applyWrite r v (record (.write r v) s)

/-- `FifoWrite(bytes)` (R45): loads the frame and starts nothing. -/
def fifoWrite (frame : List Byte) (s : State) : State :=
  record (.fifoWrite frame) { s with radio := { s.radio with txFrame := frame } }

/-- `FifoRead()` (R46): its value is `r.rx_frame`; it has no effect on PE state. -/
def fifoRead (s : State) : State :=
  record (.fifoRead s.radio.rxFrame) s

/-! ### The entry of a dispatch step (R141, R169) -/

/-- Consumes the line's edge. -/
def consumeEdge (l : Line) (s : State) : State :=
  match l with
  | .line0 => { s with edge0 := false }
  | .line1 => { s with edge1 := false }

/-- Enters the handler: consumes the edge, reads the flags once, clears them all with one write (R141, R147). Nothing is
saved, and the snapshot is local to the step (R169); there is no return operation (R171). -/
def enterDispatch (l : Line) (s : State) : State :=
  radioWrite .irqFlags 0xFF#8 (radioRead .irqFlags (consumeEdge l s))

/-- R149: a dispatch step of this line is enabled. -/
def dispatchEnabled (l : Line) (s : State) : Bool :=
  s.edge l && decide (s.fault = .clear) && decide (s.evq.length < s.cfg.qdepth)

/-- R191: an attempt-timer expiry is enabled. -/
def timerEnabled (s : State) : Bool :=
  s.timerArmed && decide (s.fault = .clear)

end Sys2Proof.Machine
end

