-- ==== Sys2Proof/Machine/Flags.lean ====
section
/-! DEFINITION. Every code and status word the spec computes: mode codes (30_encoding.md R66), kind codes (R64), the two
register bytes of the Mode Controller (R94, R95), STATUS (R31), ROUTE (R34), and the RESULT, FAULT and event codes. -/

namespace Sys2Proof.Machine

/-- The wire code of a kind (R64): the 16-bit packet_kind. -/
def Kind.code : Kind → Half
  | .req => 0#16
  | .ack => 1#16
  | .bcast => 2#16

/-- The 2-bit kind code of STATUS and CURKIND (R31, R77). -/
def Kind.code2 : Kind → BitVec 2
  | .req => 0#2
  | .ack => 1#2
  | .bcast => 2#2

/-- The mode codes (R66). -/
def RadioMode.code : RadioMode → BitVec 3
  | .sleep => 0b000#3
  | .standby => 0b001#3
  | .tx => 0b011#3
  | .rxc => 0b101#3
  | .rxs => 0b110#3
  | .cad => 0b111#3

/-- `opmode_byte(m)` (R95): 0x80 | (P_LFMODE << 3) | code(m). -/
def opmodeByte (cfg : Config) (m : RadioMode) : Byte :=
  0b1000#4 ++ cfg.lfMode ++ m.code

/-- The three routes the PE writes (R67, R94). -/
inductive LineRoute where
  | transmit
  | receive
  | idle
deriving DecidableEq, Repr

/-- The pair of `s.route` of a route (R94). -/
def LineRoute.pair : LineRoute → Route
  | .transmit => ⟨.txdone, .hop⟩
  | .receive => ⟨.rxdone, .hop⟩
  | .idle => ⟨.none, .none⟩

/-- `dio_byte(route)` (R94, R67). -/
def LineRoute.dioByte : LineRoute → Byte
  | .transmit => 0x5F#8
  | .receive => 0x1F#8
  | .idle => 0xFF#8

/-- The ENG field of STATUS (R31). -/
def Eng.code : Eng → BitVec 2
  | .idle => 0b00#2
  | .awTx => 0b01#2
  | .awAck => 0b10#2
  | .done => 0b11#2

/-- The route codes (R34). -/
def RouteCode.code : RouteCode → BitVec 3
  | .unknown => 0#3
  | .none => 1#3
  | .txdone => 2#3
  | .rxdone => 3#3
  | .hop => 4#3

/-- The FAULT codes (R33). -/
def PeFault.code : PeFault → Byte
  | .clear => 0#8
  | .callerError => 1#8
  | .reservedCommand => 2#8
  | .ftabUnwritten => 3#8
  | .frfOverflow => 4#8
  | .hostAccess => 5#8

/-- The RESULT codes (R32). -/
def SendResult.code : SendResult → Byte
  | .none => 0#8
  | .busy => 1#8
  | .success => 2#8
  | .timedOut => 3#8
  | .sent => 4#8
  | .payloadTooLarge => 5#8

/-- The event type codes (R24). -/
def EvType.code : EvType → Byte
  | .requestReceived => 1#8
  | .broadcastReceived => 2#8
  | .transmitComplete => 3#8

/-- The log codes (R183). -/
def LogCode.code : LogCode → Nat
  | .malformedShort => 1
  | .malformedCrc => 2
  | .unsupportedKind => 3
  | .unrecognizedIrq => 4
  | .requestTimedOut => 5
  | .spuriousTxdone => 6

/-- The MODE and MODE_VALID fields of STATUS (R31): MODE_VALID above the mode code; both 0 for UNKNOWN. -/
def modeField (m : Option RadioMode) : BitVec 4 :=
  match m with
  | some m => 1#1 ++ m.code
  | none => 0#4

/-- The CUR_KIND and CUR_KIND_VALID fields of STATUS (R31), which is also the CURKIND selector (R77). -/
def kindField (k : Option Kind) : BitVec 3 :=
  match k with
  | some k => 1#1 ++ k.code2
  | none => 0#3

/-- STATUS (R31), computed from state on every read; bit 15 is reserved and reads 0. -/
def statusWord (s : State) : Half :=
  0#1
    ++ BitVec.ofBool s.edge1
    ++ BitVec.ofBool s.edge0
    ++ BitVec.ofBool (decide (s.fault ≠ .clear))
    ++ BitVec.ofBool s.timerArmed
    ++ kindField s.curKind
    ++ modeField s.mode
    ++ BitVec.ofBool (decide (s.outPid ≠ Config.noRequest))
    ++ s.eng.code
    ++ BitVec.ofBool s.avail

/-- ROUTE (R34). -/
def routeByte (r : Route) : Byte :=
  0#2 ++ r.line1.code ++ r.line0.code

/-- The log trace as it is visible outside the PE: only when P_DEBUG = 1 (R25, R181; notes/assumptions/20.md). -/
def State.visibleLog (s : State) : List LogEntry :=
  if s.cfg.debug then s.log else []

end Sys2Proof.Machine
end

