-- ==== Sys2Proof/Machine/Operands.lean ====
section
/-! DEFINITION. Every operand form: header fields in the configured byte order (30_encoding.md R71), the payload buffer
(R11 MemRead), the hop index (R72), the link-quality operands (R73), and the selectors the PE computes itself (R76, R77). -/

namespace Sys2Proof.Machine

/-- `put_u16` (R71, R48). -/
def putHalf (o : HdrOrder) (v : Half) : List Byte :=
  match o with
  | .big => [v.extractLsb' 8 8, v.extractLsb' 0 8]
  | .little => [v.extractLsb' 0 8, v.extractLsb' 8 8]

/-- `get_u16` of two bytes in transmission order (R71, R48). -/
def getHalf (o : HdrOrder) (first second : Byte) : Half :=
  match o with
  | .big => first ++ second
  | .little => second ++ first

/-- `MemRead(PAYLOAD, i, n)` (R11): n bytes of the host payload buffer from index i. -/
def payloadRead (s : State) (i n : Nat) : List Byte :=
  (List.range n).map fun j => Memory.read s.mem (Memory.base + i + j)

/-- PAYLOAD[0..PLEN-1], the payload a SEND reads (R62). -/
def sendPayload (s : State) : List Byte :=
  payloadRead s 0 s.plenReg.toNat

/-- The hop index: the low 6 bits of RegHopChannel (R72, R68). -/
def hopIndex (raw : Byte) : BitVec 6 :=
  raw.extractLsb' 0 6

/-- `snr_q`: RegPktSnrValue, signed, in quarter dB (R73, R70). -/
def snrQ (s : State) : Int :=
  (radioValue .pktSnrValue s).toInt

/-- `raw_rssi`: RegPktRssiValue, unsigned (R73, R70). -/
def rawRssi (s : State) : Nat :=
  (radioValue .pktRssiValue s).toNat

/-- The received-frame selector (R76): CRC error, short frame, and the kind, which is taken as 0 when either holds. -/
def rxSelector (crcError : Bool) (short : Bool) (kind : Half) : BitVec 18 :=
  BitVec.ofBool crcError ++ BitVec.ofBool short ++ (if crcError || short then 0#16 else kind)

/-- The CURKIND selector (R77). -/
def curKindSelector (s : State) : BitVec 3 :=
  kindField s.curKind

/-- The TIMER selector (R77): 1 iff `s.attempt` ≥ `s.retry`. -/
def timerSelector (s : State) : BitVec 1 :=
  BitVec.ofBool (decide (s.retry.toNat ≤ s.attempt.toNat))

end Sys2Proof.Machine
end

