-- ==== Sys2Proof/Machine/Codec.lean ====
section
/-! DEFINITION. The Packet Codec (41_packet_codec.md R98, R99) and the link-quality arithmetic (R101 to R103). -/

namespace Sys2Proof.Machine

/-- What `decode` returns (R99). -/
structure Packet where
  src     : Half
  dst     : Half
  pid     : Half
  kind    : Half
  payload : List Byte
deriving DecidableEq, Repr

/-- The four header fields in transmission order (R64). -/
def headerBytes (o : HdrOrder) (src dst pid kind : Half) : List Byte :=
  putHalf o src ++ putHalf o dst ++ putHalf o pid ++ putHalf o kind

/-- `encode` (R98); `none` is PayloadTooLarge. -/
def encodeFrame (o : HdrOrder) (src dst pid kind : Half) (payload : List Byte) : Option (List Byte) :=
  if payload.length > Config.maxPayload then none
  else some (headerBytes o src dst pid kind ++ payload)

/-- `decode` (R99); `none` is MalformedPacket: fewer than 8 bytes. No upper bound is checked. -/
def decodeFrame (o : HdrOrder) (frame : List Byte) : Option Packet :=
  match frame with
  | b0 :: b1 :: b2 :: b3 :: b4 :: b5 :: b6 :: b7 :: payload =>
    some
      { src := getHalf o b0 b1
        dst := getHalf o b2 b3
        pid := getHalf o b4 b5
        kind := getHalf o b6 b7
        payload := payload }
  | _ => none

/-- `round_nearest(num / den)` for a positive denominator, as floor(num/den + 1/2). R104: for 1600·raw/15 no tie arises,
so every rounding mode agrees. -/
def roundNearest (num den : Nat) : Nat :=
  (2 * num + den) / (2 * den)

/-- `rssi_c` (R103), in hundredths of a dBm. -/
def rssiC (snr : Int) (raw : Nat) : Int :=
  if snr < 0 then -15700 + 100 * raw + 25 * snr
  else -15700 + roundNearest (1600 * raw) 15

/-- The pair `link_quality()` returns (R101), as the event record holds it: snr_q as s8, rssi_c as s16 (R102, R105). -/
def linkQualityOf (s : State) : Byte × Half :=
  (BitVec.ofInt 8 (snrQ s), BitVec.ofInt 16 (rssiC (snrQ s) (rawRssi s)))

/-- `link_quality()` (R101): the two radio reads, in this order. -/
def readLinkQuality (s : State) : State :=
  radioRead .pktRssiValue (radioRead .pktSnrValue s)

end Sys2Proof.Machine
end

