-- ==== Sys2Proof/Machine/Hop.lean ====
section
/-! DEFINITION. The Hop Synchronizer (42_hop_synchronizer.md R107, R108). -/

namespace Sys2Proof.Machine

/-- `frf_of(f)` = floor(f · 2^19 / P_FXOSC), exact (R108). The constant stands on the left so that a kernel comparison stops at
it. With P_FXOSC = 0 the rule states no result: a free value (notes/assumptions/27.md). -/
def frfOf (cfg : Config) (f : Nat) : Nat :=
  if cfg.fxosc = 0 then Config.freeCarrier f else 2 ^ Config.fstepShift * f / cfg.fxosc

/-- The three carrier writes, most significant byte first (R107, R49). -/
def writeCarrier (frf : Carrier) (s : State) : State :=
  radioWrite .frfLsb (frf.extractLsb' 0 8)
    (radioWrite .frfMid (frf.extractLsb' 8 8) (radioWrite .frfMsb (frf.extractLsb' 16 8) s))

/-- `resync` with the table entry read: an empty entry faults, then a carrier that does not fit 24 bits (R107, R168). -/
def tuneTo (entry : Option (BitVec 32)) (s : State) : Flow :=
  match entry with
  | none => raiseFault .ftabUnwritten s
  | some f =>
    if frfOf s.cfg f.toNat ≥ 2 ^ 24 then raiseFault .frfOverflow s
    else .run (writeCarrier (BitVec.ofNat 24 (frfOf s.cfg f.toNat)) s)

/-- Reads RegHopChannel and records its index (R107, R22). -/
def readHopIndex (s : State) : State :=
  { radioRead .hopChannel s with hopIdx := hopIndex (radioValue .hopChannel s) }

/-- `resync()` (R107). -/
def resync (s : State) : Flow :=
  tuneTo (s.cfg.ftab.get (hopIndex (radioValue .hopChannel s)).toFin) (readHopIndex s)

end Sys2Proof.Machine
end

