-- ==== Sys2Proof/Machine/Mode.lean ====
section
/-! DEFINITION. The Mode Controller (40_mode_controller.md): `set_mode` (R86), the host's SET_MODE command (R87), and the
six MODE operations (R88 to R93). -/

namespace Sys2Proof.Machine

/-- `s.route <- route; RadioWrite(RegDioMapping1, dio_byte(route))` (R86, R94). The two happen inside one step and the
radio does not see `s.route`; it is written second so that the edge rule still sees whether any route was written before. -/
def routeLines (r : LineRoute) (s : State) : State :=
  { radioWrite .dioMapping1 r.dioByte s with route := r.pair }

/-- `RadioWrite(RegOpMode, opmode_byte(m)); s.mode <- m` (R86). -/
def commandMode (m : RadioMode) (s : State) : State :=
  { radioWrite .opMode (opmodeByte s.cfg m) s with mode := some m }

/-- Entry into an active mode (R86): resynchronise, route, clear the Availability Flag, then write the mode. -/
def enterActive (m : RadioMode) (r : LineRoute) (s : State) : Flow :=
  (resync s).andThen fun s => .run (commandMode m { routeLines r s with avail := false })

/-- A real transition (R86). -/
def changeMode (m : RadioMode) (s : State) : Flow :=
  match m with
  | .tx => enterActive .tx .transmit s
  | .rxc => enterActive .rxc .receive s
  | .standby => .run (commandMode .standby (routeLines .idle s))
  | .sleep => .run (commandMode .sleep s)
  | .rxs => .run (commandMode .rxs s)
  | .cad => .run (commandMode .cad s)

/-- `set_mode(m)` (R86): nothing at all when the shadow already is m. -/
def setMode (m : RadioMode) (s : State) : Flow :=
  if s.mode = some m then .run s else changeMode m s

/-- A host send is in progress: `s.eng` in AW_TX or AW_ACK (R87, R115). -/
def State.sending (s : State) : Bool :=
  decide (s.eng = .awTx) || decide (s.eng = .awAck)

/-- A frame is being transmitted, as the PE sees it: `s.mode` = TX and `s.avail` = false (R87, R115). -/
def State.inFlight (s : State) : Bool :=
  decide (s.mode = some .tx) && !s.avail

/-- Host SET_MODE (R87). -/
def hostSetMode (m : RadioMode) (s : State) : Flow :=
  if s.sending then raiseFault .callerError s
  else if s.inFlight then raiseFault .callerError s
  else if m = .tx then raiseFault .callerError s
  else setMode m s

/-- MODE.SLEEP (R88). -/
def execModeSleep (s : State) : Result := (hostSetMode .sleep s).outcome

/-- MODE.STDBY (R89). -/
def execModeStdby (s : State) : Result := (hostSetMode .standby s).outcome

/-- MODE.TX (R90): from the host it always raises CALLER_ERROR. -/
def execModeTx (s : State) : Result := (hostSetMode .tx s).outcome

/-- MODE.RXC (R91). -/
def execModeRxc (s : State) : Result := (hostSetMode .rxc s).outcome

/-- MODE.RXS (R92). -/
def execModeRxs (s : State) : Result := (hostSetMode .rxs s).outcome

/-- MODE.CAD (R93). -/
def execModeCad (s : State) : Result := (hostSetMode .cad s).outcome

end Sys2Proof.Machine
end

