-- ==== Sys2Proof/Machine/Engine.lean ====
section
/-! DEFINITION. The Protocol Engine (43_protocol_engine.md): the host sends (R113 to R118), the transmit-complete handlers
(R119 to R122), the received-frame handlers (R123 to R131), the attempt-timer handlers (R132 to R134) and EVQ.POP (R136). -/

namespace Sys2Proof.Machine

/-! ### Sending (R113 to R118) -/

/-- `send_check()` (R115). -/
def sendCheck (s : State) : Flow :=
  if s.sending then raiseFault .callerError s
  else if s.outPid ≠ Config.noRequest then raiseFault .callerError s
  else if s.inFlight then raiseFault .callerError s
  else .run s

/-- `transmit_frame` (R118): FifoWrite, `s.cur_kind`, then Transmit. A payload over 240 bytes has no frame (R98); no caller
hands one over, and the model stops on it (notes/assumptions/13.md). -/
def transmitFrame (dst pid : Half) (kind : Kind) (payload : List Byte) (s : State) : Flow :=
  match encodeFrame s.cfg.hdrOrder s.cfg.nodeId dst pid kind.code payload with
  | none => .broken .oversizeFrame
  | some frame => setMode .tx { fifoWrite frame s with curKind := some kind }

/-- Standby, then transmit: how every frame is sent (R114, R116, R117, R125; decision D10). -/
def sendFrame (dst pid : Half) (kind : Kind) (payload : List Byte) (s : State) : Flow :=
  (setMode .standby s).andThen (transmitFrame dst pid kind payload)

/-- `start_attempt()` (R114). -/
def startAttempt (s : State) : Flow :=
  (sendFrame s.reqDst s.outPid .req s.reqPayload { s with attempt := s.attempt + 1#8 }).andThen fun s =>
    .run { s with eng := .awTx, timerArmed := true }

/-- The copy SEND.REQ takes at acceptance (R113, R58). -/
def copyRequest (s : State) : State :=
  { s with
    reqDst := s.destReg
    reqPayload := sendPayload s
    retry := s.retryReg
    timeout := s.timeoutReg
    attempt := 0#8
    opKind := some .req }

/-- SEND.REQ with RETRY = 0: no attempt at all (R113, decision D17). -/
def abandonAtOnce (s : State) : State :=
  addLog .requestTimedOut 0 { s with avail := true, eng := .done, result := .timedOut }

/-- SEND.REQ with RETRY ≥ 1: draw the packet_id and start the first attempt (R113). -/
def beginRequest (s : State) : Flow :=
  startAttempt { takeDraw s with outPid := nextPid s, result := .busy }

/-- An accepted SEND.REQ (R113). -/
def acceptRequest (s : State) : Flow :=
  if s.retry = 0#8 then .run (abandonAtOnce s) else beginRequest s

/-- The payload-size check of the three SEND commands: RESULT, no radio access, nothing else (R113, R152). -/
def checkSize (k : State → Flow) (s : State) : Flow :=
  if s.plenReg.toNat > Config.maxPayload then .run { s with result := .payloadTooLarge } else k s

/-- `host_pid()` (R116). -/
def hostPid (s : State) : Half :=
  match s.cfg.hostPid with
  | .zero => Config.noRequest
  | .draw => nextPid s

/-- The draw `host_pid()` takes, if it takes one. -/
def takeHostPid (s : State) : State :=
  match s.cfg.hostPid with
  | .zero => s
  | .draw => takeDraw s

/-- A SEND that does not wait: one frame of the kind, RESULT ← SENT (R116, R117). -/
def sendOnce (kind : Kind) (s : State) : Flow :=
  (sendFrame s.destReg (hostPid s) kind (sendPayload s) { takeHostPid s with opKind := some kind }).andThen fun s =>
    .run { s with eng := .awTx, result := .sent }

/-- SEND.REQ (R113). -/
def execSendReq (s : State) : Result :=
  ((sendCheck s).andThen (checkSize fun s => acceptRequest (copyRequest s))).outcome

/-- SEND.ACK (R116). -/
def execSendAck (s : State) : Result :=
  ((sendCheck s).andThen (checkSize (sendOnce .ack))).outcome

/-- SEND.BCAST (R117). -/
def execSendBcast (s : State) : Result :=
  ((sendCheck s).andThen (checkSize (sendOnce .bcast))).outcome

/-! ### Transmit-complete handlers (R119 to R122) -/

/-- The engine's move when the frame of its own operation has left (R120, R121). -/
def advanceEng (k : Option Kind) (target : Eng) (s : State) : State :=
  if s.eng = .awTx ∧ s.opKind = k then { s with eng := target } else s

/-- `if P_TXC_ON_REQUEST: emit Ev(TRANSMIT_COMPLETE, [], 0, 0)` (R120). -/
def requestTxRecord (s : State) : State :=
  if s.cfg.txcOnRequest then emitEvent txCompleteRecord s else s

/-- TXDONE.REQ (R120). -/
def execTxdoneReq (s : State) : Result :=
  ((setMode .rxc s).andThen fun s => .run (advanceEng (some .req) .awAck (requestTxRecord s))).outcome

/-- The body TXDONE.ACK and TXDONE.BCAST share (R121): `k <- s.cur_kind`. -/
def finishTransmit (s : State) : State :=
  advanceEng s.curKind .done (emitEvent txCompleteRecord { s with avail := true })

/-- TXDONE.ACK (R121). -/
def execTxdoneAck (s : State) : Result := .next (finishTransmit s)

/-- TXDONE.BCAST (R121). -/
def execTxdoneBcast (s : State) : Result := .next (finishTransmit s)

/-- TXDONE.NONE (R122): logs the snapshot of the dispatch step it runs in. -/
def execTxdoneNone (s : State) : Result := .next (addLog .spuriousTxdone s.snap.toNat s)

/-! ### Received-frame handlers (R123 to R131) -/

/-- `rx_resume()` (R131). -/
def rxResume (s : State) : Flow := setMode .rxc s

/-- RX.CRCERR (R123): the frame is not read. -/
def execRxCrcerr (s : State) : Result := (rxResume (addLog .malformedCrc 0 s)).outcome

/-- RX.SHORT (R124). -/
def execRxShort (s : State) : Result :=
  (rxResume (addLog .malformedShort s.radio.rxFrame.length s)).outcome

/-- Handles the decoded frame `FifoRead` returned in this step. A frame too short to decode is MalformedPacket, whatever
handler met it (R99, R153); the selector sends none here (notes/assumptions/12.md). -/
def withPacket (k : Packet → State → Flow) (s : State) : Flow :=
  match decodeFrame s.cfg.hdrOrder s.radio.rxFrame with
  | none => rxResume (addLog .malformedShort s.radio.rxFrame.length s)
  | some p => k p s

/-- The record of a delivered packet (R101, R127): its link quality is what the radio registers hold. -/
def deliveredRecord (t : EvType) (payload : List Byte) (s : State) : EvRecord :=
  ⟨t, payload, (linkQualityOf s).1, (linkQualityOf s).2⟩

/-- A Request addressed to this node (R125 to R127): link quality, the auto-ack with the Request's packet_id back to its
source, then the record. -/
def answerRequest (p : Packet) (s : State) : Flow :=
  (sendFrame p.src p.pid .ack [] (readLinkQuality s)).andThen fun s' =>
    .run (emitEvent (deliveredRecord .requestReceived p.payload s) s')

/-- RX.REQ on a decoded packet (R125). -/
def receiveRequest (p : Packet) (s : State) : Flow :=
  if p.dst = s.cfg.nodeId then answerRequest p s else rxResume s

/-- RX.REQ (R125). -/
def execRxReq (s : State) : Result := (withPacket receiveRequest s).outcome

/-- The end of the outstanding request on its Acknowledge (R128). -/
def settleRequest (s : State) : State :=
  if s.opKind = some .req ∧ s.sending = true then
    { s with eng := .done, result := .success, timerArmed := false }
  else s

/-- RX.ACK on a decoded packet (R128): only packet_id is compared. -/
def receiveAck (p : Packet) (s : State) : Flow :=
  if p.pid = s.outPid then
    (setMode .standby { s with outPid := Config.noRequest }).andThen fun s =>
      .run (settleRequest { s with avail := true })
  else rxResume s

/-- RX.ACK (R128). -/
def execRxAck (s : State) : Result := (withPacket receiveAck s).outcome

/-- RX.BCAST on a decoded packet (R129). -/
def receiveBroadcast (p : Packet) (s : State) : Flow :=
  rxResume (emitEvent (deliveredRecord .broadcastReceived p.payload s) (readLinkQuality s))

/-- RX.BCAST (R129). -/
def execRxBcast (s : State) : Result := (withPacket receiveBroadcast s).outcome

/-- RX.UNSUPPORTED (R130). -/
def execRxUnsupported (kind : Half) (s : State) : Result :=
  (rxResume (addLog .unsupportedKind kind.toNat s)).outcome

/-! ### Attempt-timer handlers (R132 to R134) and the event queue (R136) -/

/-- TIMER.RETRY (R133). -/
def execTimerRetry (s : State) : Result := (startAttempt s).outcome

/-- TIMER.FINAL (R134): the mode is not changed. -/
def execTimerFinal (s : State) : Result :=
  .next (addLog .requestTimedOut s.attempt.toNat
    { s with
      outPid := Config.noRequest
      avail := true
      eng := .done
      result := .timedOut
      timerArmed := false })

/-- EVQ.POP (R136): removes the head record; an empty queue is left unchanged. -/
def execEvqPop (s : State) : Result := .next { s with evq := s.evq.tail }

end Sys2Proof.Machine
end

