-- ==== Sys2Proof/Machine/Dispatcher.lean ====
section
/-! DEFINITION. The Interrupt Dispatcher's four branches (44_interrupt_dispatcher.md R142 to R145). What every dispatch step
does before its branch (R141) is `enterDispatch`. -/

namespace Sys2Proof.Machine

/-- The TxDone handler, chosen by `s.cur_kind` (R119). -/
def txdoneHandler (s : State) : Result :=
  match s.curKind with
  | some .req => execTxdoneReq s
  | some .ack => execTxdoneAck s
  | some .bcast => execTxdoneBcast s
  | none => execTxdoneNone s

/-- IRQ.TXDONE (R142). -/
def execIrqTxdone (snap : Byte) (s : State) : Result :=
  txdoneHandler { s with snap := snap }

/-- The handler of a frame that passed the CRC check, once FifoRead has returned it (R123): length, then kind. -/
def frameHandler (s : State) : Result :=
  match decodeFrame s.cfg.hdrOrder s.radio.rxFrame with
  | none => execRxShort s
  | some p =>
    if p.kind = 0#16 then execRxReq s
    else if p.kind = 1#16 then execRxAck s
    else if p.kind = 2#16 then execRxBcast s
    else execRxUnsupported p.kind s

/-- `rx_handler(snap)` (R123): a CRC error comes first, and the frame is then not read at all. -/
def rxHandler (snap : Byte) (s : State) : Result :=
  if snap.getLsbD s.cfg.irqBits.crc then execRxCrcerr s else frameHandler (fifoRead s)

/-- IRQ.RXDONE (R143). -/
def execIrqRxdone (snap : Byte) (s : State) : Result :=
  rxHandler snap { s with snap := snap }

/-- `s.mode` is TX or RXC, the modes in which hops are followed (R144). -/
def State.active (s : State) : Bool :=
  decide (s.mode = some .tx) || decide (s.mode = some .rxc)

/-- IRQ.HOP (R144). -/
def execIrqHop (snap : Byte) (s : State) : Result :=
  if s.active then (resync { s with snap := snap }).outcome else .next { s with snap := snap }

/-- IRQ.NONE (R145). -/
def execIrqNone (snap : Byte) (s : State) : Result :=
  .next (addLog .unrecognizedIrq snap.toNat { s with snap := snap })

end Sys2Proof.Machine
end

