-- ==== Sys2Proof/Machine/Dispatch.lean ====
section
/-! DEFINITION. One arm per operation of spec/opcode_table.json. -/

namespace Sys2Proof.Machine

/-- The operation's effect on the state it is executed in. The step adds what comes before: the input consumed, and for an
IRQ operation the entry of the dispatch step. -/
def exec (i : Instr) (s : State) : Host.Outcome State Fault Refusal :=
  match i with
  | .sendReq => Sys2Proof.Machine.execSendReq s
  | .sendAck => Sys2Proof.Machine.execSendAck s
  | .sendBcast => Sys2Proof.Machine.execSendBcast s
  | .modeSleep => Sys2Proof.Machine.execModeSleep s
  | .modeStdby => Sys2Proof.Machine.execModeStdby s
  | .modeTx => Sys2Proof.Machine.execModeTx s
  | .modeRxc => Sys2Proof.Machine.execModeRxc s
  | .modeRxs => Sys2Proof.Machine.execModeRxs s
  | .modeCad => Sys2Proof.Machine.execModeCad s
  | .evqPop => Sys2Proof.Machine.execEvqPop s
  | .irqTxdone snap => Sys2Proof.Machine.execIrqTxdone snap s
  | .irqRxdone snap => Sys2Proof.Machine.execIrqRxdone snap s
  | .irqHop snap => Sys2Proof.Machine.execIrqHop snap s
  | .irqNone snap => Sys2Proof.Machine.execIrqNone snap s
  | .rxCrcerr _ => Sys2Proof.Machine.execRxCrcerr s
  | .rxShort _ => Sys2Proof.Machine.execRxShort s
  | .rxReq => Sys2Proof.Machine.execRxReq s
  | .rxAck => Sys2Proof.Machine.execRxAck s
  | .rxBcast => Sys2Proof.Machine.execRxBcast s
  | .rxUnsupported kind => Sys2Proof.Machine.execRxUnsupported kind s
  | .txdoneReq => Sys2Proof.Machine.execTxdoneReq s
  | .txdoneAck => Sys2Proof.Machine.execTxdoneAck s
  | .txdoneBcast => Sys2Proof.Machine.execTxdoneBcast s
  | .txdoneNone _ => Sys2Proof.Machine.execTxdoneNone s
  | .timerRetry => Sys2Proof.Machine.execTimerRetry s
  | .timerFinal => Sys2Proof.Machine.execTimerFinal s

end Sys2Proof.Machine
end

