-- ==== Sys2Proof/Decode.lean ====
section
/-! DEFINITION. The decoders of the six selector formats (30_encoding.md R61, R74 to R77), each total on its width, and
the encoder. A selector is one bit pattern together with the format it is read in: the same bits mean different
operations in different formats. -/

namespace Sys2Proof

/-- A bit pattern in its format (30_encoding.md, sections 1 and 3). -/
inductive Selector where
  /-- The 16-bit word written to CMD (R61). -/
  | cmd (w : Half)
  /-- The offset of an 8-bit host write (R74, EVQ.POP). -/
  | hostReg (offset : BitVec 10)
  /-- The snapshot of RegIrqFlags (R75). -/
  | irq (snap : Byte)
  /-- The received-frame selector (R76). -/
  | rxSel (sel : BitVec 18)
  /-- The kind of the frame in flight (R77). -/
  | curKind (k : BitVec 3)
  /-- The timer selector (R77). -/
  | timer (final : BitVec 1)
deriving DecidableEq, Repr

/-- Why a selector names no operation. -/
inductive DecodeError where
  /-- `decode_cmd` returns RESERVED (R61, R78). -/
  | reservedCommand (w : Half)
  /-- The offset is not EVQ_POP's: an 8-bit write there is no operation (R74). -/
  | notAnOperation (offset : BitVec 10)
  /-- CURKIND 0b111, which cannot occur (R77). -/
  | noSuchKind
deriving DecidableEq, Repr

/-- `decode_cmd` of R61, the SEND half: OP = 0x1. -/
def decodeSend (w : Half) : Except DecodeError Instr :=
  if w.extractLsb' 6 10 ≠ 0#10 then .error (.reservedCommand w)
  else if w.extractLsb' 4 2 = 0b00#2 then .ok .sendReq
  else if w.extractLsb' 4 2 = 0b01#2 then .ok .sendAck
  else if w.extractLsb' 4 2 = 0b10#2 then .ok .sendBcast
  else .error (.reservedCommand w)

/-- `decode_cmd` of R61, the SET_MODE half: OP = 0x2, with the mode codes of R66; 010 and 100 are reserved. -/
def decodeSetMode (w : Half) : Except DecodeError Instr :=
  if w.extractLsb' 7 9 ≠ 0#9 then .error (.reservedCommand w)
  else if w.extractLsb' 4 3 = 0b000#3 then .ok .modeSleep
  else if w.extractLsb' 4 3 = 0b001#3 then .ok .modeStdby
  else if w.extractLsb' 4 3 = 0b011#3 then .ok .modeTx
  else if w.extractLsb' 4 3 = 0b101#3 then .ok .modeRxc
  else if w.extractLsb' 4 3 = 0b110#3 then .ok .modeRxs
  else if w.extractLsb' 4 3 = 0b111#3 then .ok .modeCad
  else .error (.reservedCommand w)

/-- `decode_cmd` of R61, total over all 65 536 words. -/
def decodeCmd (w : Half) : Except DecodeError Instr :=
  if w.extractLsb' 0 4 = 0x1#4 then decodeSend w
  else if w.extractLsb' 0 4 = 0x2#4 then decodeSetMode w
  else .error (.reservedCommand w)

/-- R74: only offset 0x012 is an operation when an 8-bit write reaches it. -/
def decodeHostReg (offset : BitVec 10) : Except DecodeError Instr :=
  if offset = 0x012#10 then .ok .evqPop else .error (.notAnOperation offset)

/-- R75: TxDone, then RxDone, then FhssChangeChannel, then the rest, at the bit positions of R65. -/
def decodeIrq (b : IrqBits) (snap : Byte) : Instr :=
  if snap.getLsbD b.txDone then .irqTxdone snap
  else if snap.getLsbD b.rxDone then .irqRxdone snap
  else if snap.getLsbD b.hop then .irqHop snap
  else .irqNone snap

/-- R76: CRC error, then a short frame, then the whole 16-bit packet_kind. -/
def decodeRxSel (sel : BitVec 18) : Instr :=
  if sel[17] then .rxCrcerr (sel.extractLsb' 0 17)
  else if sel[16] then .rxShort (sel.extractLsb' 0 16)
  else if sel.extractLsb' 0 16 = 0#16 then .rxReq
  else if sel.extractLsb' 0 16 = 1#16 then .rxAck
  else if sel.extractLsb' 0 16 = 2#16 then .rxBcast
  else .rxUnsupported (sel.extractLsb' 0 16)

/-- R77: bit 2 says that a frame has been transmitted, bits [1:0] its kind. -/
def decodeCurKind (k : BitVec 3) : Except DecodeError Instr :=
  if !k[2] then .ok (.txdoneNone (k.extractLsb' 0 2))
  else if k.extractLsb' 0 2 = 0#2 then .ok .txdoneReq
  else if k.extractLsb' 0 2 = 1#2 then .ok .txdoneAck
  else if k.extractLsb' 0 2 = 2#2 then .ok .txdoneBcast
  else .error .noSuchKind

/-- R77: 1 iff `s.attempt` ≥ `s.retry`. -/
def decodeTimer (final : BitVec 1) : Instr :=
  if final = 1#1 then .timerFinal else .timerRetry

/-- R85: every selector decodes, or is rejected by name. The bit positions (R65) matter to the IRQ format alone. -/
def decode (b : IrqBits) : Selector → Except DecodeError Instr
  | .cmd w => decodeCmd w
  | .hostReg offset => decodeHostReg offset
  | .irq snap => .ok (decodeIrq b snap)
  | .rxSel sel => .ok (decodeRxSel sel)
  | .curKind k => decodeCurKind k
  | .timer final => .ok (decodeTimer final)

/-- The selector of an operation, from the same tables (R74 to R77). -/
def encode : Instr → Selector
  | .sendReq => .cmd 0x0001#16
  | .sendAck => .cmd 0x0011#16
  | .sendBcast => .cmd 0x0021#16
  | .modeSleep => .cmd 0x0002#16
  | .modeStdby => .cmd 0x0012#16
  | .modeTx => .cmd 0x0032#16
  | .modeRxc => .cmd 0x0052#16
  | .modeRxs => .cmd 0x0062#16
  | .modeCad => .cmd 0x0072#16
  | .evqPop => .hostReg 0x012#10
  | .irqTxdone snap => .irq snap
  | .irqRxdone snap => .irq snap
  | .irqHop snap => .irq snap
  | .irqNone snap => .irq snap
  | .rxCrcerr low => .rxSel (0x20000#18 ||| low.setWidth 18)
  | .rxShort low => .rxSel (0x10000#18 ||| low.setWidth 18)
  | .rxReq => .rxSel 0x00000#18
  | .rxAck => .rxSel 0x00001#18
  | .rxBcast => .rxSel 0x00002#18
  | .rxUnsupported kind => .rxSel (kind.setWidth 18)
  | .txdoneReq => .curKind 0b100#3
  | .txdoneAck => .curKind 0b101#3
  | .txdoneBcast => .curKind 0b110#3
  | .txdoneNone low => .curKind (low.setWidth 3)
  | .timerRetry => .timer 0#1
  | .timerFinal => .timer 1#1

/-- The bits of a selector, numbered as the opcode table numbers them. -/
def Selector.bits : Selector → Nat
  | .cmd w => w.toNat
  | .hostReg offset => offset.toNat
  | .irq snap => snap.toNat
  | .rxSel sel => sel.toNat
  | .curKind k => k.toNat
  | .timer final => final.toNat

/-- The width of a selector's format in bits. -/
def Selector.width : Selector → Nat
  | .cmd _ => 16
  | .hostReg _ => 10
  | .irq _ => 8
  | .rxSel _ => 18
  | .curKind _ => 3
  | .timer _ => 1

/-- The selector a row of the opcode table stands for, from its width in bits, or in whole bytes, and its bits. The
table's words do not carry their format, so some words of different formats are equal (notes/assumptions/14.md): a
16-bit word is read as CMD, a 24-bit word as RXSEL, and a byte as IRQ, but for the bytes 4, 5, 6 (the CURKIND words of
TXDONE.REQ, TXDONE.ACK and TXDONE.BCAST) and 1 (the TIMER word of TIMER.FINAL). -/
def tableSelector (nbits w : Nat) : Option Selector :=
  if nbits = 16 then some (.cmd (BitVec.ofNat 16 w))
  else if nbits = 24 ∨ nbits = 18 then some (.rxSel (BitVec.ofNat 18 w))
  else if nbits = 10 then some (.hostReg (BitVec.ofNat 10 w))
  else if nbits = 8 ∧ w = 1 then some (.timer 1#1)
  else if nbits = 8 ∧ (w = 4 ∨ w = 5 ∨ w = 6) then some (.curKind (BitVec.ofNat 3 w))
  else if nbits = 8 then some (.irq (BitVec.ofNat 8 w))
  else if nbits = 3 then some (.curKind (BitVec.ofNat 3 w))
  else if nbits = 1 then some (.timer (BitVec.ofNat 1 w))
  else none

/-- What the decoder reads from a word of the opcode table (host interface), which is written for the default bit
positions. -/
def decodeTableWord (nbits w : Nat) : Option Instr :=
  match tableSelector nbits w with
  | some sel => (decode .default sel).toOption
  | none => none

/-- One row of spec/opcode_table.json: the bits that are fixed and their values, in the row's format. -/
structure TableRow where
  width : Nat
  mask  : Nat
  value : Nat
deriving DecidableEq, Repr

/-- The table's row of each operation (match, mask and format as spec/opcode_table.json gives them). -/
def Instr.row : Instr → TableRow
  | .sendReq => ⟨16, 0xFFFF, 0x0001⟩
  | .sendAck => ⟨16, 0xFFFF, 0x0011⟩
  | .sendBcast => ⟨16, 0xFFFF, 0x0021⟩
  | .modeSleep => ⟨16, 0xFFFF, 0x0002⟩
  | .modeStdby => ⟨16, 0xFFFF, 0x0012⟩
  | .modeTx => ⟨16, 0xFFFF, 0x0032⟩
  | .modeRxc => ⟨16, 0xFFFF, 0x0052⟩
  | .modeRxs => ⟨16, 0xFFFF, 0x0062⟩
  | .modeCad => ⟨16, 0xFFFF, 0x0072⟩
  | .evqPop => ⟨10, 0x3FF, 0x012⟩
  | .irqTxdone _ => ⟨8, 0x08, 0x08⟩
  | .irqRxdone _ => ⟨8, 0x48, 0x40⟩
  | .irqHop _ => ⟨8, 0x4A, 0x02⟩
  | .irqNone _ => ⟨8, 0x4A, 0x00⟩
  | .rxCrcerr _ => ⟨18, 0x20000, 0x20000⟩
  | .rxShort _ => ⟨18, 0x30000, 0x10000⟩
  | .rxReq => ⟨18, 0x3FFFF, 0x00000⟩
  | .rxAck => ⟨18, 0x3FFFF, 0x00001⟩
  | .rxBcast => ⟨18, 0x3FFFF, 0x00002⟩
  | .rxUnsupported _ => ⟨18, 0x30000, 0x00000⟩
  | .txdoneReq => ⟨3, 0b111, 0b100⟩
  | .txdoneAck => ⟨3, 0b111, 0b101⟩
  | .txdoneBcast => ⟨3, 0b111, 0b110⟩
  | .txdoneNone _ => ⟨3, 0b100, 0b000⟩
  | .timerRetry => ⟨1, 1, 0⟩
  | .timerFinal => ⟨1, 1, 1⟩

end Sys2Proof
end

