-- ==== Sys2Proof/Machine/Environment.lean ====
section
/-! DEFINITION. The environment's events on the radio (60_exceptions.md R187 to R190) and PE reset (70_reset_and_hazards.md
R194). An event that is not enabled is passed over (notes/assumptions/2.md). -/

namespace Sys2Proof.Machine

/-- The effect of RADIO.TXDONE on the radio (R187). -/
def RadioState.txDone (b : IrqBits) (r : RadioState) : RadioState :=
  { r with transmitting := false, irq := r.irq ||| IrqBits.mask b.txDone, opmode := RadioMode.standby.code }

/-- RADIO.TXDONE (R187): enabled while a transmission is in progress. -/
def radioTxDone (s : State) : State :=
  if s.radio.transmitting then radioEvent (s.radio.txDone s.cfg.irqBits) s else s

/-- The flags a reception sets (R188): RxDone, ValidHeader (bit 4, R65), and PayloadCrcError when the CRC failed. -/
def rxFlags (b : IrqBits) (crcErr : Bool) : Byte :=
  0x10#8 ||| IrqBits.mask b.rxDone ||| if crcErr then IrqBits.mask b.crc else 0x00#8

/-- The effect of RADIO.RXDONE on the radio (R188): a reception in RXS returns to Standby, one in RXC stays. -/
def RadioState.rxDone (b : IrqBits) (r : RadioState) (frame : List Byte) (crcErr : Bool) (snr rssi : Byte) : RadioState :=
  { r with
    rxFrame := frame
    snrRaw := snr
    rssiRaw := rssi
    irq := r.irq ||| rxFlags b crcErr
    opmode := if r.opmode = RadioMode.rxs.code then RadioMode.standby.code else r.opmode }

/-- The radio can receive: `r.opmode` is RXC or RXS (R188). -/
def RadioState.receiving (r : RadioState) : Bool :=
  decide (r.opmode = RadioMode.rxc.code) || decide (r.opmode = RadioMode.rxs.code)

/-- RADIO.RXDONE (R188): enabled while the radio receives, for a frame of 0 to 255 bytes. -/
def radioRxDone (frame : List Byte) (crcErr : Bool) (snr rssi : Byte) (s : State) : State :=
  if s.radio.receiving && decide (frame.length ≤ 255) then radioEvent (s.radio.rxDone s.cfg.irqBits frame crcErr snr rssi) s else s

/-- RADIO.HOP (R189): enabled in TX, RXC and RXS. -/
def radioHop (ch : Byte) (s : State) : State :=
  if s.radio.receiving || decide (s.radio.opmode = RadioMode.tx.code) then
    radioEvent { s.radio with hopCh := ch, irq := s.radio.irq ||| IrqBits.mask s.cfg.irqBits.hop } s
  else s

/-- The bit RADIO.FLAG sets (R189, R65). -/
def RadioFlag.mask : RadioFlag → Byte
  | .rxTimeout => 0x80#8
  | .cadDone => 0x04#8
  | .cadDetected => 0x01#8

/-- RADIO.FLAG (R189): enabled at any time. -/
def radioFlag (f : RadioFlag) (s : State) : State :=
  radioEvent { s.radio with irq := s.radio.irq ||| f.mask } s

/-- PE reset (R194): every PE field and operand register at its reset value; the radio, the configuration, the trace of
accesses already made and the inputs still to come are as they were. -/
def peReset (s : State) : State :=
  State.pristine s.cfg s.radio s.trace s.script s.hostData s.snap s.draws s.freeUses

end Sys2Proof.Machine
end

