-- ==== Sys2Proof/Machine/HostMap.lean ====
section
/-! DEFINITION. The host register space (10_state.md R30 to R37, 20_memory.md R42, R43): the map, the reads, and the writes that
are not operations. -/

namespace Sys2Proof.Machine

/-- The width of a host access (R42). -/
inductive Width where
  | byte
  | half
deriving DecidableEq, Repr

/-- The registers of R30. -/
inductive HostReg where
  | cmd
  | dest
  | retry
  | plen
  | timeout
  | status
  | result
  | fault
  | outPid
  | attempt
  | hopIdx
  | route
  | evqCount
  | evqPop
  | evType
  | evLen
  | evSnr
  | evRssi
  | evData (i : Nat)
  | payload (i : Nat)
deriving DecidableEq, Repr

/-- The register at an offset (R30); `none` where there is none: the reserved ranges 0x018–0x0FF and 0x2FF–0x3FF, and the
offsets inside a 16-bit register (R43). -/
def hostRegAt (offset : BitVec 10) : Option HostReg :=
  if offset.toNat = 0x000 then some .cmd
  else if offset.toNat = 0x002 then some .dest
  else if offset.toNat = 0x004 then some .retry
  else if offset.toNat = 0x005 then some .plen
  else if offset.toNat = 0x006 then some .timeout
  else if offset.toNat = 0x008 then some .status
  else if offset.toNat = 0x00A then some .result
  else if offset.toNat = 0x00B then some .fault
  else if offset.toNat = 0x00C then some .outPid
  else if offset.toNat = 0x00E then some .attempt
  else if offset.toNat = 0x00F then some .hopIdx
  else if offset.toNat = 0x010 then some .route
  else if offset.toNat = 0x011 then some .evqCount
  else if offset.toNat = 0x012 then some .evqPop
  else if offset.toNat = 0x013 then some .evType
  else if offset.toNat = 0x014 then some .evLen
  else if offset.toNat = 0x015 then some .evSnr
  else if offset.toNat = 0x016 then some .evRssi
  else if 0x100 ≤ offset.toNat ∧ offset.toNat ≤ 0x1FF then some (.evData (offset.toNat - 0x100))
  else if 0x200 ≤ offset.toNat ∧ offset.toNat ≤ 0x2FE then some (.payload (offset.toNat - 0x200))
  else none

/-- The width of a register (R30). -/
def HostReg.width : HostReg → Width
  | .cmd => .half
  | .dest => .half
  | .retry => .byte
  | .plen => .byte
  | .timeout => .half
  | .status => .half
  | .result => .byte
  | .fault => .byte
  | .outPid => .half
  | .attempt => .byte
  | .hopIdx => .byte
  | .route => .byte
  | .evqCount => .byte
  | .evqPop => .byte
  | .evType => .byte
  | .evLen => .byte
  | .evSnr => .byte
  | .evRssi => .half
  | .evData _ => .byte
  | .payload _ => .byte

/-- The register an access of this width at this offset reaches (R43): its own offset and its own width, or none. -/
def accessed (w : Width) (offset : BitVec 10) : Option HostReg :=
  match hostRegAt offset with
  | some r => if r.width = w then some r else none
  | none => none

/-- The head record's data byte i, 0 past its end (R30). -/
def EvRecord.byteAt (r : EvRecord) (i : Nat) : Byte :=
  r.data.getD i 0#8

/-- A field of the head record, 0 when the queue is empty (R35). -/
def headField (s : State) (f : EvRecord → Half) : Half :=
  match s.evq with
  | [] => 0#16
  | r :: _ => f r

/-- What a register reads as (R30, R31, R34, R35); CMD and EVQ_POP read 0 (R37). No read has a side effect (R53). -/
def readRegister (r : HostReg) (s : State) : Half :=
  match r with
  | .cmd => 0#16
  | .dest => s.destReg
  | .retry => s.retryReg.setWidth 16
  | .plen => s.plenReg.setWidth 16
  | .timeout => s.timeoutReg
  | .status => statusWord s
  | .result => s.result.code.setWidth 16
  | .fault => s.fault.code.setWidth 16
  | .outPid => s.outPid
  | .attempt => s.attempt.setWidth 16
  | .hopIdx => s.hopIdx.setWidth 16
  | .route => (routeByte s.route).setWidth 16
  | .evqCount => (BitVec.ofNat 8 s.evq.length).setWidth 16
  | .evqPop => 0#16
  | .evType => headField s fun r => r.type.code.setWidth 16
  | .evLen => headField s fun r => (BitVec.ofNat 8 r.data.length).setWidth 16
  | .evSnr => headField s fun r => r.snrQ.setWidth 16
  | .evRssi => headField s fun r => r.rssiC
  | .evData i => headField s fun r => (r.byteAt i).setWidth 16
  | .payload i => (Memory.read s.mem (Memory.base + i)).setWidth 16

/-- A host access the map does not allow raises HOST_ACCESS and changes nothing else (R37, R43). While a fault is set it
keeps the first code (R176; notes/assumptions/11.md). -/
def hostFault (s : State) : State :=
  recordFault .hostAccess s

/-- A host read: its value goes to the host; a read the map does not allow returns nothing (notes/assumptions/10.md). -/
def hostRead (w : Width) (offset : BitVec 10) (s : State) : State :=
  match accessed w offset with
  | some r => { s with hostData := some (readRegister r s) }
  | none => { hostFault s with hostData := none }

/-- What a host write reaches. -/
inductive WriteTarget where
  /-- CMD or EVQ_POP: an operation of the PE (R36, R136). -/
  | operation (r : HostReg)
  /-- An operand register: a step that changes only that register (R37). -/
  | stored (s : State)
  /-- A read-only register, a reserved offset, or a wrong width: HOST_ACCESS (R37). -/
  | illegal
deriving DecidableEq, Repr

/-- A write to a register (R30, R37). An 8-bit register takes the low byte of `v`, which is all an 8-bit access carries. -/
def writeRegister (r : HostReg) (v : Half) (s : State) : WriteTarget :=
  match r with
  | .cmd => .operation .cmd
  | .dest => .stored { s with destReg := v }
  | .retry => .stored { s with retryReg := v.setWidth 8 }
  | .plen => .stored { s with plenReg := v.setWidth 8 }
  | .timeout => .stored { s with timeoutReg := v }
  | .status => .illegal
  | .result => .illegal
  | .fault => .illegal
  | .outPid => .illegal
  | .attempt => .illegal
  | .hopIdx => .illegal
  | .route => .illegal
  | .evqCount => .illegal
  | .evqPop => .operation .evqPop
  | .evType => .illegal
  | .evLen => .illegal
  | .evSnr => .illegal
  | .evRssi => .illegal
  | .evData _ => .illegal
  | .payload i => .stored { s with mem := Memory.write s.mem (Memory.base + i) (v.setWidth 8) }

/-- A host write, by width and offset (R43). -/
def hostWriteTarget (w : Width) (offset : BitVec 10) (v : Half) (s : State) : WriteTarget :=
  match accessed w offset with
  | some r => writeRegister r v s
  | none => .illegal

/-- The host address of the register at an offset (R54; notes/assumptions/22.md). -/
def hostAddress (cfg : Config) (offset : BitVec 10) : Nat :=
  cfg.peBase + offset.toNat

end Sys2Proof.Machine
end

