-- ==== Sys2Proof/Machine/Fetch.lean ====
section
/-! DEFINITION. From the next input to the operation it selects: what the PE does in place of an instruction fetch (R4, R41).
A CMD word, an EVQ_POP write, a snapshot or a timer selector is decoded here; every other input is complete in itself. Also
here: how a word of the opcode table is placed so that the next step runs it (notes/assumptions/14.md, 15.md). -/

namespace Sys2Proof.Machine

/-- What an input comes to. -/
inductive Fetched where
  /-- It selects an operation, to be executed in this state. -/
  | operation (i : Instr) (s : State)
  /-- It is complete: the state after it. -/
  | done (s : State)
deriving DecidableEq, Repr

/-- A selector that decodes runs; one that does not raises RESERVED_COMMAND (R78). -/
def select (sel : Selector) (s : State) : Fetched :=
  match decode s.cfg.irqBits sel with
  | .ok i => .operation i s
  | .error _ => .done (recordFault .reservedCommand s)

/-- The operation an allowed write to CMD or EVQ_POP selects. While a fault is set it is no step (R36, R176). -/
def fetchOperation (r : HostReg) (offset : BitVec 10) (v : Half) (s : State) : Fetched :=
  if s.fault = .clear then
    if r = .cmd then select (.cmd v) s else select (.hostReg offset) s
  else .done s

/-- A host write (R36, R37). -/
def fetchWrite (w : Width) (offset : BitVec 10) (v : Half) (s : State) : Fetched :=
  match hostWriteTarget w offset v s with
  | .operation r => fetchOperation r offset v s
  | .stored s' => .done s'
  | .illegal => .done (hostFault s)

/-- A dispatch step (R141), if it is enabled (R149). -/
def fetchDispatch (l : Line) (s : State) : Fetched :=
  if dispatchEnabled l s then select (.irq (radioValue .irqFlags s)) (enterDispatch l s) else .done s

/-- An attempt-timer expiry (R132), if it is enabled (R191). -/
def fetchExpiry (s : State) : Fetched :=
  if timerEnabled s then select (.timer (timerSelector s)) s else .done s

/-- What the input comes to in this state. -/
def fetch (e : Event) (s : State) : Fetched :=
  match e with
  | .write8 offset v => fetchWrite .byte offset (v.setWidth 16) s
  | .write16 offset v => fetchWrite .half offset v s
  | .read8 offset => .done (hostRead .byte offset s)
  | .read16 offset => .done (hostRead .half offset s)
  | .dispatch l => fetchDispatch l s
  | .timerExpire => fetchExpiry s
  | .radioTxDone => .done (radioTxDone s)
  | .radioRxDone frame crcErr snr rssi => .done (radioRxDone frame crcErr snr rssi s)
  | .radioHop ch => .done (radioHop ch s)
  | .radioFlag f => .done (radioFlag f s)
  | .peReset => .done (peReset s)

/-! ### Placing a word of the opcode table -/

/-- The PE may take a step: no fault. -/
def placeEvent (e : Event) (s : State) : State :=
  { s with script := e :: s.script, fault := .clear }

/-- A pending edge on line 0 with these flags, and room in the event queue, so that dispatch is enabled (R149). -/
def placeDispatch (snap : Byte) (s : State) : State :=
  placeEvent (.dispatch .line0)
    { s with edge0 := true, radio := { s.radio with irq := snap }, evq := s.evq.take (s.cfg.qdepth - 1) }

/-- A received frame whose header carries this kind and zeros. -/
def frameOfKind (o : HdrOrder) (kind : Half) : List Byte :=
  headerBytes o 0#16 0#16 0#16 kind

/-- A frame in the radio's receive buffer that has the selector (R76): with a CRC error any frame, else a short one, else
one of the selector's kind. -/
def placeFrame (sel : BitVec 18) (s : State) : State :=
  placeDispatch
    (IrqBits.mask s.cfg.irqBits.rxDone ||| if sel[17] then IrqBits.mask s.cfg.irqBits.crc else 0x00#8)
    { s with radio := { s.radio with
        rxFrame := if sel[16] then [] else frameOfKind s.cfg.hdrOrder (sel.extractLsb' 0 16) } }

/-- The kind of the frame in flight that has the selector (R77). -/
def kindOfSelector (k : BitVec 3) : Option Kind :=
  if !k[2] then none
  else if k.extractLsb' 0 2 = 0#2 then some .req
  else if k.extractLsb' 0 2 = 1#2 then some .ack
  else some .bcast

/-- A running attempt timer that has the selector (R77). -/
def placeTimer (final : BitVec 1) (s : State) : State :=
  placeEvent .timerExpire
    { s with timerArmed := true, attempt := 1#8, retry := if final = 1#1 then 1#8 else 2#8 }

/-- Puts a selector where the next step meets it. -/
def placeSelector (sel : Selector) (s : State) : State :=
  match sel with
  | .cmd w => placeEvent (.write16 0x000#10 w) s
  | .hostReg offset => placeEvent (.write8 offset 0#8) s
  | .irq snap => placeDispatch snap s
  | .rxSel w => placeFrame w s
  | .curKind k => placeDispatch (IrqBits.mask s.cfg.irqBits.txDone) { s with curKind := kindOfSelector k }
  | .timer final => placeTimer final s

end Sys2Proof.Machine
end

