-- ==== Sys2Proof/Machine/Step.lean ====
section
/-! DEFINITION. One step of the machine: it takes the next input of the script (R7), and runs the operation it selects. -/

namespace Sys2Proof.Machine

/-- The rest of a step, once its input is fetched. -/
def runFetched (f : Fetched) : Host.Outcome State Fault Refusal :=
  match f with
  | .operation i s => exec i s
  | .done s => .next s

/-- One atomic step (R7). With no input left the machine is idle (R186; notes/assumptions/2.md). -/
def step (s : State) : Host.Outcome State Fault Refusal :=
  match s.script with
  | [] => .next s
  | e :: rest => runFetched (fetch e { s with script := rest })

/-- The state with a word of the opcode table placed where the next step meets it (notes/assumptions/14.md, 15.md). A width
the table does not have leaves the state as it is. -/
def State.withFetchWord (s : State) (nbits w : Nat) : State :=
  match tableSelector nbits w with
  | some sel => placeSelector sel s
  | none => s

end Sys2Proof.Machine
end

