-- ==== Sys2Proof/Safety.lean ====
section
/-! DEFINITION. What counts as a good state, in the terms the claims use: the field ranges of 10_state.md, the request
invariant of R138, what the shadow mode and the routing say of the radio, and quiescence (R186). -/

namespace Sys2Proof.Machine

/-- The ranges of the fields that are lists: PAYLOAD in canonical form, `s.req_payload` of at most 240 bytes (R20),
`r.rx_frame` of at most 255 (R38), `r.tx_frame` of at most 248 (R45), and records of at most 247 bytes (R24). -/
abbrev State.inRange (s : State) : Prop :=
  Memory.wf s.mem ∧ s.reqPayload.length ≤ Config.maxPayload ∧ s.radio.rxFrame.length ≤ 255 ∧
    s.radio.txFrame.length ≤ Config.maxFrame ∧ ∀ r ∈ s.evq, r.data.length ≤ 247

/-- The event queue holds at most P_QDEPTH records (R24). -/
abbrev State.queueInRange (s : State) : Prop :=
  s.evq.length ≤ s.cfg.qdepth

/-- A Request of this node's is under way: `s.op_kind` = REQ and `s.eng` in AW_TX or AW_ACK (R138). -/
abbrev State.requesting (s : State) : Prop :=
  s.opKind = some .req ∧ (s.eng = .awTx ∨ s.eng = .awAck)

/-- R138 (a) and (d), while `s.fault` = 0. -/
abbrev State.requestInvariant (s : State) : Prop :=
  s.fault = .clear →
    (s.outPid ≠ 0#16 ↔ s.timerArmed = true) ∧ (s.timerArmed = true ↔ s.requesting) ∧
      (s.timerArmed = true → 1 ≤ s.attempt.toNat ∧ s.attempt.toNat ≤ s.retry.toNat)

/-- R138 (c): every Request frame in the trace has a nonzero packet_id. -/
abbrev State.requestsNumbered (s : State) : Prop :=
  ∀ frame, Access.fifoWrite frame ∈ s.trace → ∀ p, decodeFrame s.cfg.hdrOrder frame = some p → p.kind = 0#16 → p.pid ≠ 0#16

/-- What the shadow mode says of the radio (R15, R207): the radio is in the mode last commanded, or has gone to Standby on
its own; and it transmits only in Transmit. -/
abbrev State.shadowInvariant (s : State) : Prop :=
  (∀ m, s.mode = some m → s.radio.opmode = m.code ∨ s.radio.opmode = 0b001#3) ∧
    (s.radio.transmitting = true → s.radio.opmode = 0b011#3)

/-- What `s.route` says of the radio's mapping (R23, R94): one of the three written routes with its byte in
RegDioMapping1, or no route yet. -/
abbrev State.routeInvariant (s : State) : Prop :=
  s.route = ⟨.unknown, .unknown⟩ ∨ ∃ r : LineRoute, s.route = r.pair ∧ s.radio.dio = r.dioByte

/-- A host write, at any offset and width (R43). -/
def Event.isHostWrite : Event → Bool
  | .write8 _ _ => true
  | .write16 _ _ => true
  | .read8 _ => false
  | .read16 _ => false
  | .dispatch _ => false
  | .timerExpire => false
  | .radioTxDone => false
  | .radioRxDone _ _ _ _ => false
  | .radioHop _ => false
  | .radioFlag _ => false
  | .peReset => false

/-- No PE step is enabled and no host write is pending (R186). Radio events, host reads and a reset still to come leave a node
quiescent. Two readings of the rule are the model's (DESIGN CHOICE, notes/assumptions/29.md): a host write anywhere among
the inputs to come is pending; and with a fault set and the timer armed the rule's first words are followed, not its
list, which asks for `s.timer_armed` = 0. -/
def State.quiescent (s : State) : Bool :=
  !dispatchEnabled .line0 s && !dispatchEnabled .line1 s && !timerEnabled s && !s.script.any Event.isHostWrite

/-- A safe state: no fault, every field in its range, the queue within its depth, and the request bookkeeping sound. -/
abbrev State.safe (s : State) : Prop :=
  s.fault = .clear ∧ s.inRange ∧ s.queueInRange ∧ s.requestInvariant

end Sys2Proof.Machine
end

