-- ==== Sys2Proof/WellFormed.lean ====
section
/-! DEFINITION. Which operand bits an operation may carry: those that its row of the first-match tables R75 and R76
admits. -/

namespace Sys2Proof

/-- The operand bits lie in the row: a snapshot selects, under these bit positions (R65), the branch it is given to (R75),
and RX.UNSUPPORTED carries a kind other than 0, 1 and 2 (R76, R130). Every other operation is well formed. -/
def Instr.wellFormed (b : IrqBits) : Instr → Bool
  | .irqTxdone snap => snap.getLsbD b.txDone
  | .irqRxdone snap => !snap.getLsbD b.txDone && snap.getLsbD b.rxDone
  | .irqHop snap => !snap.getLsbD b.txDone && !snap.getLsbD b.rxDone && snap.getLsbD b.hop
  | .irqNone snap => !snap.getLsbD b.txDone && !snap.getLsbD b.rxDone && !snap.getLsbD b.hop
  | .rxUnsupported kind => decide (3 ≤ kind.toNat)
  | .sendReq => true
  | .sendAck => true
  | .sendBcast => true
  | .modeSleep => true
  | .modeStdby => true
  | .modeTx => true
  | .modeRxc => true
  | .modeRxs => true
  | .modeCad => true
  | .evqPop => true
  | .rxCrcerr _ => true
  | .rxShort _ => true
  | .rxReq => true
  | .rxAck => true
  | .rxBcast => true
  | .txdoneReq => true
  | .txdoneAck => true
  | .txdoneBcast => true
  | .txdoneNone _ => true
  | .timerRetry => true
  | .timerFinal => true

end Sys2Proof
end

