-- ==== Sys2Proof/Certificates/Slice0/Obligations.lean ====
section
/-! DEFINITION. The statements for the provers. First the vocabulary of the statements: expected states written out field by
field from the rules of spec/, without the machine's own procedures. Two things are named by the machine's own terms:
`risesOnRemap`, which says whether a line rises (its rule is stated by `RoutingRaisesEdges`), and `Config.freeCarrier`, a free
value no statement constrains. -/

namespace Sys2Proof.Claims

open Sys2Proof.Machine

/-- The RegOpMode byte of R66: bit 7 LongRangeMode, bit 3 P_LFMODE, bits 2..0 the mode code. -/
def opModeByte (s : State) (code : BitVec 3) : Byte :=
  0x80#8 ||| (s.cfg.lfMode.setWidth 8 <<< 3) ||| code.setWidth 8

/-- The state after `RadioWrite(RegOpMode, …); s.mode <- m` (R86), with the radio's reaction of R190. -/
def modeWritten (m : RadioMode) (code : BitVec 3) (s : State) : State :=
  { s with
    mode := some m
    radio := { s.radio with opmode := code, transmitting := decide (m = .tx) }
    trace := s.trace ++ [.write .opMode (opModeByte s code)] }

/-- The state after the routing write of R86, with the edges it raises (R190). -/
def routed (r : Route) (dio : Byte) (s : State) : State :=
  { s with
    route := r
    radio := { s.radio with dio := dio }
    trace := s.trace ++ [.write .dioMapping1 dio]
    edge0 := s.edge0 || risesOnRemap .line0 dio s
    edge1 := s.edge1 || risesOnRemap .line1 dio s }

/-- The state after `set_mode(STANDBY)` (R86, R89). -/
def stoodBy (s : State) : State :=
  if s.mode = some .standby then s
  else modeWritten .standby 0b001#3 (routed ⟨.none, .none⟩ 0xFF#8 s)

/-- The index RegHopChannel shows (R72). -/
def hopSlot (s : State) : BitVec 6 := s.radio.hopCh.setWidth 6

/-- The frequency table entry of that index (R107). -/
def tableEntry (s : State) : Option (BitVec 32) := s.cfg.ftab.get (hopSlot s).toFin

/-- The carrier steps of a frequency: floor(f · 2^19 / P_FXOSC) (R108), a free value where P_FXOSC is 0. -/
def steps (s : State) (f : BitVec 32) : Nat :=
  if s.cfg.fxosc = 0 then Config.freeCarrier f.toNat else 524288 * f.toNat / s.cfg.fxosc

/-- The table holds f at the present index and its carrier fits 24 bits (R107, R108). -/
def tunable (s : State) (f : BitVec 32) : Prop :=
  tableEntry s = some f ∧ steps s f < 16777216

/-- resync raises this fault: FTAB_UNWRITTEN on an empty entry, FRF_OVERFLOW on a carrier of 2^24 or more (R107). -/
def resyncFails (s : State) (c : PeFault) : Prop :=
  (tableEntry s = none ∧ c = .ftabUnwritten) ∨ ∃ f, tableEntry s = some f ∧ 16777216 ≤ steps s f ∧ c = .frfOverflow

/-- The state after resync's read of the hop channel (R107). -/
def hopRead (s : State) : State :=
  { s with
    hopIdx := hopSlot s
    trace := s.trace ++ [.read .hopChannel s.radio.hopCh] }

/-- The carrier value of f (R108). -/
def carrier (s : State) (f : BitVec 32) : Carrier := BitVec.ofNat 24 (steps s f)

/-- The state after a whole resync (R107). -/
def tuned (f : BitVec 32) (s : State) : State :=
  { hopRead s with
    radio := { s.radio with frf := carrier s f }
    trace := s.trace ++
      [.read .hopChannel s.radio.hopCh,
       .write .frfMsb ((carrier s f).extractLsb' 16 8),
       .write .frfMid ((carrier s f).extractLsb' 8 8),
       .write .frfLsb ((carrier s f).extractLsb' 0 8)] }

/-- The state after a real entry into Transmit (R90). -/
def enteredTx (f : BitVec 32) (s : State) : State :=
  modeWritten .tx 0b011#3 { routed ⟨.txdone, .hop⟩ 0x5F#8 (tuned f s) with avail := false }

/-- The state after a real entry into ReceiveContinuous (R91). -/
def enteredRxc (f : BitVec 32) (s : State) : State :=
  modeWritten .rxc 0b101#3 { routed ⟨.rxdone, .hop⟩ 0x1F#8 (tuned f s) with avail := false }

/-- The state after `rx_resume()` (R131): nothing at all in RXC, else a full entry. -/
def resumed (f : BitVec 32) (s : State) : State :=
  if s.mode = some .rxc then s else enteredRxc f s

/-- `rx_resume()` meets no resync fault: the node listens already, or the table serves the present index. -/
def resumable (s : State) (f : BitVec 32) : Prop := s.mode ≠ some .rxc → tunable s f

/-- `rx_resume()` meets this resync fault: it is a real entry into RXC, and resync fails. -/
def resumeFails (s : State) (c : PeFault) : Prop := s.mode ≠ some .rxc ∧ resyncFails s c

/-- The state after a fault is recorded (R176). -/
def faulted (c : PeFault) (s : State) : State :=
  { s with fault := if s.fault = .clear then c else s.fault }

/-- A header field on air (R48). -/
def onAir (o : HdrOrder) (v : Half) : List Byte :=
  match o with
  | .big => [BitVec.ofNat 8 (v.toNat / 256), BitVec.ofNat 8 v.toNat]
  | .little => [BitVec.ofNat 8 v.toNat, BitVec.ofNat 8 (v.toNat / 256)]

/-- The frame this node puts on air (R64, R118): its own identity is the source. -/
def frameOnAir (s : State) (dst pid kind : Half) (payload : List Byte) : List Byte :=
  onAir s.cfg.hdrOrder s.cfg.nodeId ++ onAir s.cfg.hdrOrder dst ++ onAir s.cfg.hdrOrder pid ++
    onAir s.cfg.hdrOrder kind ++ payload

/-- PAYLOAD[0..PLEN-1] (R62). -/
def payloadOf (s : State) : List Byte :=
  (List.range s.plenReg.toNat).map fun i => Memory.read s.mem (0x200 + i)

/-- The state after `FifoWrite(frame); s.cur_kind <- kind` (R118). -/
def loaded (frame : List Byte) (kind : Kind) (s : State) : State :=
  { s with
    curKind := some kind
    radio := { s.radio with txFrame := frame }
    trace := s.trace ++ [.fifoWrite frame] }

/-- The state after Standby and `transmit_frame` (R114, R116, R117, R118, R125). -/
def transmitted (frame : List Byte) (kind : Kind) (f : BitVec 32) (s : State) : State :=
  enteredTx f (loaded frame kind (stoodBy s))

/-- The host may command: no send in progress and no frame in flight (R87, R115). -/
def idleForHost (s : State) : Prop :=
  s.eng ≠ .awTx ∧ s.eng ≠ .awAck ∧ ¬(s.mode = some .tx ∧ s.avail = false)

/-- A SEND is accepted by `send_check` (R115). -/
def sendAccepted (s : State) : Prop := idleForHost s ∧ s.outPid = 0#16

/-- What SEND.REQ copies at acceptance (R113), with the packet_id drawn and the first attempt counted. -/
def requestCopied (pid : Half) (s : State) : State :=
  { s with
    reqDst := s.destReg
    reqPayload := payloadOf s
    retry := s.retryReg
    timeout := s.timeoutReg
    attempt := 1#8
    opKind := some .req
    outPid := pid
    result := .busy
    draws := s.draws + 1 }

/-- The record of a delivered packet (R101 to R103): snr_q as it stands in the register, rssi_c in hundredths of a dBm. -/
def delivered (t : EvType) (payload : List Byte) (s : State) : EvRecord :=
  ⟨t, payload, s.radio.snrRaw, BitVec.ofInt 16 (rssiC s.radio.snrRaw.toInt s.radio.rssiRaw.toNat)⟩

/-- The state after `link_quality()`: its two reads (R101). -/
def measured (s : State) : State :=
  { s with trace := s.trace ++ [.read .pktSnrValue s.radio.snrRaw, .read .pktRssiValue s.radio.rssiRaw] }

/-- The state after one log entry (R183). -/
def logged (c : LogCode) (info : Nat) (s : State) : State := { s with log := s.log ++ [⟨c, info⟩] }

/-- The state after one event record (R24). -/
def queued (r : EvRecord) (s : State) : State := { s with evq := s.evq ++ [r] }

/-- The state in which a dispatch branch begins (R141): the line's edge consumed, the flags read and cleared. -/
def dispatched (l : Line) (s : State) : State :=
  { s with
    edge0 := if l = .line0 then false else s.edge0
    edge1 := if l = .line1 then false else s.edge1
    radio := { s.radio with irq := 0#8 }
    trace := s.trace ++ [.read .irqFlags s.radio.irq, .write .irqFlags 0xFF#8] }

/-- A flag of the register byte at this bit (R65). -/
def flagSet (byte : Byte) (bit : Fin 8) : Bool := decide (byte.toNat / 2 ^ bit.val % 2 = 1)

/-- The byte with this one bit set. -/
def oneBit (bit : Fin 8) : Byte := BitVec.ofNat 8 (2 ^ bit.val)

/-- The RXSEL selector of R76 as a number. -/
def rxSelWord (snap : Byte) (s : State) : BitVec 18 :=
  if flagSet snap s.cfg.irqBits.crc then (if s.radio.rxFrame.length < 8 then 0x30000#18 else 0x20000#18)
  else if s.radio.rxFrame.length < 8 then 0x10000#18
  else (getHalf s.cfg.hdrOrder (s.radio.rxFrame.getD 6 0#8) (s.radio.rxFrame.getD 7 0#8)).setWidth 18

/-- The CURKIND selector of R77 as a number. -/
def curKindWord (s : State) : BitVec 3 :=
  match s.curKind with
  | none => 0b000#3
  | some .req => 0b100#3
  | some .ack => 0b101#3
  | some .bcast => 0b110#3

/-- The operations a host's CMD write selects (R74), but for the three sends. -/
def modeCommands : List (Instr × RadioMode) :=
  [(.modeSleep, .sleep), (.modeStdby, .standby), (.modeTx, .tx), (.modeRxc, .rxc), (.modeRxs, .rxs), (.modeCad, .cad)]

/-- The host's send operations (R74). -/
def sendCommands : List Instr := [.sendReq, .sendAck, .sendBcast]

end Sys2Proof.Claims

open Sys2Proof Sys2Proof.Machine Sys2Proof.Claims

/-! ### Encoding -/

/-- 30_encoding.md section 3: decoding the selector of a well-formed operation gives the operation back, for every operation,
every operand and all bit positions of R65. -/
def Obligations.DecodeOfEncode : Prop :=
  ∀ (b : IrqBits) (i : Instr), i.wellFormed b = true → decode b (encode i) = .ok i

/-- 30_encoding.md section 3: a selector that decodes is the one selector of its operation, which is well formed; no bit of
a selector is dropped. -/
def Obligations.EncodeOfDecode : Prop :=
  ∀ (b : IrqBits) (sel : Selector) (i : Instr), decode b sel = .ok i → encode i = sel ∧ i.wellFormed b = true

/-- 95_test_vectors.md sections 2.1 and 2.7 and the opcode table: a word of each format decodes to its operation, at the
default bit positions. -/
def Obligations.WordsOfEachFormatDecode : Prop :=
  let decode := decode .default
  decode (.cmd 0x0001#16) = .ok .sendReq ∧ decode (.cmd 0x0052#16) = .ok .modeRxc ∧
    decode (.hostReg 0x012#10) = .ok .evqPop ∧ decode (.irq 0x48#8) = .ok (.irqTxdone 0x48#8) ∧
    decode (.irq 0xD0#8) = .ok (.irqRxdone 0xD0#8) ∧ decode (.rxSel 0x00001#18) = .ok .rxAck ∧
    decode (.rxSel 0x0FFFF#18) = .ok (.rxUnsupported 0xFFFF#16) ∧ decode (.curKind 0b110#3) = .ok .txdoneBcast ∧
    decode (.timer 1#1) = .ok .timerFinal

/-- R78: which CMD words select no operation, and that writing one raises RESERVED_COMMAND with no other change. -/
def Obligations.ReservedWordRaisesReservedCommand : Prop :=
  (∀ (b : IrqBits) (w : BitVec 16),
    ((∃ e, decode b (.cmd w) = .error e) ↔
      (w.toNat % 16 ≠ 1 ∧ w.toNat % 16 ≠ 2) ∨
        (w.toNat % 16 = 1 ∧ (w.toNat / 16 % 4 = 3 ∨ w.toNat / 64 ≠ 0)) ∨
        (w.toNat % 16 = 2 ∧ (w.toNat / 16 % 8 = 2 ∨ w.toNat / 16 % 8 = 4 ∨ w.toNat / 128 ≠ 0)))) ∧
  ∀ (s : State) (w : BitVec 16) (e : DecodeError) (rest : List Event),
    s.script = .write16 0x000#10 w :: rest → s.fault = .clear → decode s.cfg.irqBits (.cmd w) = .error e →
      step s = .next { s with script := rest, fault := .reservedCommand }

/-- 44_interrupt_dispatcher.md section 3, R65: the branch is chosen by the first of the TxDone, RxDone and FhssChangeChannel
bits that is set, which by default are 3, 6 and 1; no other bit matters. -/
def Obligations.SnapshotSelectsBranchByPriority : Prop :=
  (∀ (b : IrqBits) (snap : BitVec 8),
    decode b (.irq snap) =
      .ok (if flagSet snap b.txDone = true then .irqTxdone snap
        else if flagSet snap b.rxDone = true then .irqRxdone snap
        else if flagSet snap b.hop = true then .irqHop snap
        else .irqNone snap)) ∧
  IrqBits.default.txDone.val = 3 ∧ IrqBits.default.rxDone.val = 6 ∧ IrqBits.default.hop.val = 1 ∧
    IrqBits.default.crc.val = 5

/-! ### The step -/

/-- R4, R36, R141, R132: an input that selects an operation runs exactly it, after what the input itself does (its removal
from the script; for a dispatch, the entry of R141). -/
def Obligations.StepRunsSelectedOperation : Prop :=
  ∀ (s : State) (e : Event) (rest : List Event) (i : Instr), s.script = e :: rest → s.fault = .clear →
    (∀ w, e = .write16 0x000#10 w → decode s.cfg.irqBits (.cmd w) = .ok i → step s = exec i { s with script := rest }) ∧
    (∀ v, e = .write8 0x012#10 v → decode s.cfg.irqBits (.hostReg 0x012#10) = .ok i → step s = exec i { s with script := rest }) ∧
    (∀ l, e = .dispatch l → s.edge l = true → s.evq.length < s.cfg.qdepth →
      decode s.cfg.irqBits (.irq s.radio.irq) = .ok i →
      step s = exec i (dispatched l { s with script := rest })) ∧
    (e = .timerExpire → s.timerArmed = true →
      decode s.cfg.irqBits (.timer (if s.retry.toNat ≤ s.attempt.toNat then 1#1 else 0#1)) = .ok i →
      step s = exec i { s with script := rest })

/-- R119 and R77: IRQ.TXDONE runs the handler the CURKIND selector names, and the selector always names one. -/
def Obligations.TxdoneBranchRunsItsHandler : Prop :=
  ∀ (snap : BitVec 8) (s : State),
    ∃ h, decode s.cfg.irqBits (.curKind (curKindWord s)) = .ok h ∧ exec (.irqTxdone snap) s = exec h { s with snap := snap }

/-- R123 and R76: IRQ.RXDONE reads the frame unless the CRC bit is set, and runs the handler the RXSEL selector names. -/
def Obligations.RxdoneBranchRunsItsHandler : Prop :=
  ∀ (snap : BitVec 8) (s : State),
    ∃ h, decode s.cfg.irqBits (.rxSel (rxSelWord snap s)) = .ok h ∧
      exec (.irqRxdone snap) s =
        exec h
          (if flagSet snap s.cfg.irqBits.crc then { s with snap := snap }
           else { s with snap := snap, trace := s.trace ++ [.fifoRead s.radio.rxFrame] })

/-- R141, R149: a dispatch step is taken exactly when the line's edge is pending, no fault is set and the queue has room;
otherwise the input is passed over, and edges and flags wait in place. That a step not enabled is passed over, not a
stop, is the model's choice (notes/assumptions/2.md). -/
def Obligations.DispatchHeldUnlessEnabled : Prop :=
  ∀ (s : State) (l : Line) (rest : List Event), s.script = .dispatch l :: rest →
    (s.edge l = false ∨ s.fault ≠ .clear ∨ s.cfg.qdepth ≤ s.evq.length) → step s = .next { s with script := rest }

/-! ### Host register space -/

/-- R37: "Writes to DEST, RETRY, PLEN, TIMEOUT and PAYLOAD are steps that change only that register." Also while a fault is
set (R176). -/
def Obligations.OperandWriteChangesOnlyItsRegister : Prop :=
  ∀ (s : State) (rest : List Event),
    (∀ v, s.script = .write16 0x002#10 v :: rest → step s = .next { s with script := rest, destReg := v }) ∧
    (∀ v, s.script = .write8 0x004#10 v :: rest → step s = .next { s with script := rest, retryReg := v }) ∧
    (∀ v, s.script = .write8 0x005#10 v :: rest → step s = .next { s with script := rest, plenReg := v }) ∧
    (∀ v, s.script = .write16 0x006#10 v :: rest → step s = .next { s with script := rest, timeoutReg := v })

/-- R30, R37: a write to PAYLOAD[i] stores the byte at offset 0x200 + i, every other byte reads as before, and nothing else
changes but the memory and the script. -/
def Obligations.PayloadWriteStoresOneByte : Prop :=
  ∀ (s : State) (i : Nat) (v : BitVec 8) (rest : List Event), i ≤ 254 →
    s.script = .write8 (BitVec.ofNat 10 (0x200 + i)) v :: rest → Memory.wf s.mem →
      ∃ m, step s = .next { s with script := rest, mem := m } ∧ Memory.read m (0x200 + i) = v ∧
        ∀ a, a ≠ 0x200 + i → Memory.read m a = Memory.read s.mem a

/-- R37: "RW registers read back exactly what was last written": a read after a write to each operand register and payload
byte answers the value. -/
def Obligations.OperandReadsBackLastWrite : Prop :=
  ∀ (s t u : State) (rest : List Event),
    (∀ v, s.script = .write16 0x002#10 v :: .read16 0x002#10 :: rest → step s = .next t → step t = .next u →
      u.hostData = some v) ∧
    (∀ v, s.script = .write16 0x006#10 v :: .read16 0x006#10 :: rest → step s = .next t → step t = .next u →
      u.hostData = some v) ∧
    (∀ v, s.script = .write8 0x004#10 v :: .read8 0x004#10 :: rest → step s = .next t → step t = .next u →
      u.hostData = some (v.setWidth 16)) ∧
    (∀ v, s.script = .write8 0x005#10 v :: .read8 0x005#10 :: rest → step s = .next t → step t = .next u →
      u.hostData = some (v.setWidth 16)) ∧
    (∀ v (i : Nat), i ≤ 254 → Memory.wf s.mem →
      s.script = .write8 (BitVec.ofNat 10 (0x200 + i)) v :: .read8 (BitVec.ofNat 10 (0x200 + i)) :: rest →
      step s = .next t → step t = .next u → u.hostData = some (v.setWidth 16))

/-- R43, R37: an access at an offset or a width that is no register's, and a write to a read-only register, raises
HOST_ACCESS and changes nothing else; the first fault stands (R26). That such a read answers no data is the model's choice
(notes/assumptions/10.md). -/
def Obligations.IllegalHostAccessFaults : Prop :=
  ∀ (s : State) (o : BitVec 10) (rest : List Event),
    let byteReg : Prop := o.toNat ∈ [0x004, 0x005, 0x00A, 0x00B, 0x00E, 0x00F, 0x010, 0x011, 0x012, 0x013, 0x014, 0x015] ∨
      (0x100 ≤ o.toNat ∧ o.toNat ≤ 0x2FE)
    let halfReg : Prop := o.toNat ∈ [0x000, 0x002, 0x006, 0x008, 0x00C, 0x016]
    let byteWritable : Prop := o.toNat ∈ [0x004, 0x005, 0x012] ∨ (0x200 ≤ o.toNat ∧ o.toNat ≤ 0x2FE)
    let halfWritable : Prop := o.toNat ∈ [0x000, 0x002, 0x006]
    (s.script = .read8 o :: rest → ¬byteReg →
      step s = .next (faulted .hostAccess { s with script := rest, hostData := none })) ∧
    (s.script = .read16 o :: rest → ¬halfReg →
      step s = .next (faulted .hostAccess { s with script := rest, hostData := none })) ∧
    (∀ v, s.script = .write8 o v :: rest → ¬byteWritable → step s = .next (faulted .hostAccess { s with script := rest })) ∧
    (∀ v, s.script = .write16 o v :: rest → ¬halfWritable → step s = .next (faulted .hostAccess { s with script := rest }))

/-- R31: every field of STATUS, and its value right after a reset. -/
def Obligations.StatusShowsEveryField : Prop :=
  (∀ (s : State) (rest : List Event), s.script = .peReset :: .read16 0x008#10 :: rest →
    ∃ t u, step s = .next t ∧ step t = .next u ∧ u.hostData = some 0x0001#16) ∧
  ∀ (s : State) (rest : List Event), s.script = .read16 0x008#10 :: rest →
    ∃ w : BitVec 16, step s = .next { s with script := rest, hostData := some w } ∧
      w[0] = s.avail ∧
      w.extractLsb' 1 2 = (match s.eng with | .idle => 0b00#2 | .awTx => 0b01#2 | .awAck => 0b10#2 | .done => 0b11#2) ∧
      (w[3] = true ↔ s.outPid ≠ 0#16) ∧
      w.extractLsb' 4 3 =
        (match s.mode with
          | none => 0b000#3 | some .sleep => 0b000#3 | some .standby => 0b001#3 | some .tx => 0b011#3
          | some .rxc => 0b101#3 | some .rxs => 0b110#3 | some .cad => 0b111#3) ∧
      (w[7] = false ↔ s.mode = none) ∧
      w.extractLsb' 8 2 =
        (match s.curKind with | none => 0b00#2 | some .req => 0b00#2 | some .ack => 0b01#2 | some .bcast => 0b10#2) ∧
      (w[10] = false ↔ s.curKind = none) ∧
      w[11] = s.timerArmed ∧
      (w[12] = true ↔ s.fault ≠ .clear) ∧
      w[13] = s.edge0 ∧ w[14] = s.edge1 ∧ w[15] = false

/-- R30, R32 to R35, R37: reads of the other read-only registers, and of CMD and EVQ_POP: a read changes only the answer. That
EVQ_COUNT and EV_LEN show a count modulo 256 is the model's choice (notes/assumptions/24.md); P_QDEPTH and R24 keep both counts
below 256. -/
def Obligations.ReadOnlyRegistersShowTheState : Prop :=
  let routeCode (c : RouteCode) : Nat :=
    match c with | .unknown => 0 | .none => 1 | .txdone => 2 | .rxdone => 3 | .hop => 4
  ∀ (s : State) (rest : List Event) (o : BitVec 10) (v : BitVec 16),
    (∀ n : Nat, n ≤ 255 → s.script = .read8 (BitVec.ofNat 10 (0x100 + n)) :: rest →
      step s = .next { s with
        script := rest
        hostData := some (match s.evq with | [] => 0#16 | r :: _ => (r.data.getD n 0#8).setWidth 16) }) ∧
    (s.script = .read16 o :: rest →
      (o, v) ∈
        [(0x000#10, 0#16), (0x00C#10, s.outPid), (0x016#10, match s.evq with | [] => 0#16 | r :: _ => r.rssiC)] →
      step s = .next { s with script := rest, hostData := some v }) ∧
    (s.script = .read8 o :: rest →
      (o, v) ∈
        [(0x00A#10, BitVec.ofNat 16 (match s.result with
            | .none => 0 | .busy => 1 | .success => 2 | .timedOut => 3 | .sent => 4 | .payloadTooLarge => 5)),
         (0x00B#10, BitVec.ofNat 16 (match s.fault with
            | .clear => 0 | .callerError => 1 | .reservedCommand => 2 | .ftabUnwritten => 3 | .frfOverflow => 4
            | .hostAccess => 5)),
         (0x00E#10, s.attempt.setWidth 16),
         (0x00F#10, s.hopIdx.setWidth 16),
         (0x010#10, BitVec.ofNat 16 (8 * routeCode s.route.line1 + routeCode s.route.line0)),
         (0x011#10, BitVec.ofNat 16 (s.evq.length % 256)),
         (0x012#10, 0#16),
         (0x013#10, match s.evq with
            | [] => 0#16
            | r :: _ => (match r.type with | .requestReceived => 1#16 | .broadcastReceived => 2#16 | .transmitComplete => 3#16)),
         (0x014#10, match s.evq with | [] => 0#16 | r :: _ => BitVec.ofNat 16 (r.data.length % 256)),
         (0x015#10, match s.evq with | [] => 0#16 | r :: _ => r.snrQ.setWidth 16)] →
      step s = .next { s with script := rest, hostData := some v })

/-- R194, R39: a PE reset at any time sets every PE field and operand register, and leaves the radio, the configuration and
the trace of accesses alone. The model's own fields keep their values too. -/
def Obligations.ResetSetsEveryPeField : Prop :=
  ∀ (s : State) (rest : List Event), s.script = .peReset :: rest →
    step s = .next
      { s with
        script := rest
        eng := .idle
        mode := none
        route := ⟨.unknown, .unknown⟩
        avail := true
        outPid := 0#16
        curKind := none
        opKind := none
        reqDst := 0#16
        reqPayload := []
        retry := 0#8
        timeout := 0#16
        attempt := 0#8
        timerArmed := false
        hopIdx := 0#6
        evq := []
        log := []
        fault := .clear
        result := .none
        edge0 := false
        edge1 := false
        destReg := 0#16
        retryReg := 0#8
        plenReg := 0#8
        timeoutReg := 0#16
        mem := [] }

/-! ### Faults -/

/-- R26: once nonzero, `s.fault` keeps its value until reset. -/
def Obligations.FaultKeepsItsFirstCode : Prop :=
  ∀ (s t : State) (e : Event) (rest : List Event), s.script = e :: rest → e ≠ .peReset → s.fault ≠ .clear →
    step s = .next t → t.fault = s.fault

/-- R176: while a fault is set no PE step is taken: a CMD write, an EVQ_POP write, a dispatch and a timer expiry change
nothing. That an input which is not enabled is passed over, and is not a stop, is the model's choice
(notes/assumptions/2.md). -/
def Obligations.FaultHoldsEveryPeStep : Prop :=
  ∀ (s : State) (e : Event) (rest : List Event), s.script = e :: rest → s.fault ≠ .clear →
    ((∃ w, e = .write16 0x000#10 w) ∨ (∃ v, e = .write8 0x012#10 v) ∨ (∃ l, e = .dispatch l) ∨ e = .timerExpire) →
      step s = .next { s with script := rest }

/-- R7, R85: from every state whose request payload is in range, a step answers a next state, and no step refuses. The
model's one stop (notes/assumptions/13.md, the model's choice) is an attempt of a request whose recorded payload is over 240
bytes, which R20 rules out. -/
def Obligations.EveryStepAnswersNext : Prop :=
  (∀ s : State, s.reqPayload.length ≤ 240 → ∃ t, step s = .next t) ∧
    (∀ (s : State) (r : Refusal), step s ≠ .refused r) ∧
    ∀ s : State, 240 < s.reqPayload.length → exec .timerRetry s = .fault .oversizeFrame

/-! ### Mode Controller -/

/-- R87, R90, R86: MODE.TX always raises CALLER_ERROR, with no other change; any mode command is refused so while a host send
is in progress or a frame is in flight; otherwise one for the mode the shadow already holds makes no access and no change. -/
def Obligations.ModeCommandsRefusedOrRepeated : Prop :=
  (∀ s : State, exec .modeTx s = .next (faulted .callerError s)) ∧
  ∀ (i : Instr) (m : RadioMode) (s : State), (i, m) ∈ modeCommands →
    (¬idleForHost s → exec i s = .next (faulted .callerError s)) ∧
    (m ≠ .tx → idleForHost s → s.mode = some m → exec i s = .next s)

/-- R88, R92, R93: SLEEP, RXS and CAD write only the mode; routing, availability and everything else of the PE stand. That the
radio's other registers and both frames stand after the Sleep write is the model's choice (notes/assumptions/28.md): R184
leaves it outside the PE. -/
def Obligations.SleepRxsCadWriteOnlyTheMode : Prop :=
  ∀ s : State, idleForHost s →
    (s.mode ≠ some .sleep → exec .modeSleep s = .next (modeWritten .sleep 0b000#3 s)) ∧
    (s.mode ≠ some .rxs → exec .modeRxs s = .next (modeWritten .rxs 0b110#3 s)) ∧
    (s.mode ≠ some .cad → exec .modeCad s = .next (modeWritten .cad 0b111#3 s))

/-- R89: STANDBY unroutes both lines, then writes the mode; the Availability Flag stands. -/
def Obligations.StandbyUnroutesThenWritesTheMode : Prop :=
  ∀ s : State, idleForHost s → s.mode ≠ some .standby →
    exec .modeStdby s = .next (modeWritten .standby 0b001#3 (routed ⟨.none, .none⟩ 0xFF#8 s))

/-- R91: RXC resynchronises, routes, clears the Availability Flag and writes the mode, in this order. -/
def Obligations.ReceiveContinuousEntry : Prop :=
  ∀ (s : State) (f : BitVec 32), idleForHost s → s.mode ≠ some .rxc → tunable s f →
    exec .modeRxc s = .next (enteredRxc f s)

/-- R107, R168: an empty table entry, or a carrier of 2^24 or more, ends the entry into RXC after the channel read: no
carrier, routing or mode write. -/
def Obligations.ResyncFaultEndsTheEntry : Prop :=
  ∀ s : State, idleForHost s → s.mode ≠ some .rxc →
    (tableEntry s = none → exec .modeRxc s = .next (faulted .ftabUnwritten (hopRead s))) ∧
    (∀ f : BitVec 32, tableEntry s = some f → 16777216 ≤ steps s f →
      exec .modeRxc s = .next (faulted .frfOverflow (hopRead s)))

/-- R108: the carrier is the floor of f · 2^19 / P_FXOSC, with the corner cases the rule lists; 1 100 000 000 Hz faults. -/
def Obligations.CarrierIsTheFloor : Prop :=
  (∀ (cfg : Config) (f : Nat), 0 < cfg.fxosc →
    frfOf cfg f * cfg.fxosc ≤ f * 2 ^ 19 ∧ f * 2 ^ 19 < (frfOf cfg f + 1) * cfg.fxosc) ∧
  (∀ cfg : Config, cfg.fxosc = 32000000 →
    frfOf cfg 915000000 = 0xE4C000 ∧ frfOf cfg 868000000 = 0xD90000 ∧ frfOf cfg 433000000 = 0x6C4000 ∧
    frfOf cfg 902200000 = 0xE18CCC ∧ frfOf cfg 1100000000 = 18022400 ∧
    (∀ f : Nat, frfOf cfg f < 2 ^ 24 ↔ f ≤ 1023999999)) ∧
  ∀ s : State, idleForHost s → s.mode ≠ some .rxc → s.cfg.fxosc = 32000000 → tableEntry s = some 1100000000#32 →
    exec .modeRxc s = .next (faulted .frfOverflow (hopRead s))

/-- R190, R196: once a route is known, a write to RegDioMapping1 raises a line exactly when the new mapping shows a set flag and
the old one did not; the first routing write after a reset raises it whenever the new mapping shows a set flag; a pending
edge stays. That the second case takes R196 over the level rule of R190 is the model's reading (notes/assumptions/8.md). -/
def Obligations.RoutingRaisesEdges : Prop :=
  ∀ (s : State) (dio : BitVec 8),
    let flag (bit : Fin 8) : Bool := flagSet s.radio.irq bit
    let level0 (d : BitVec 8) : Bool :=
      if d.toNat / 64 = 0 then flag s.cfg.irqBits.rxDone
      else if d.toNat / 64 = 1 then flag s.cfg.irqBits.txDone
      else false
    let level1 (d : BitVec 8) : Bool := if d.toNat / 16 % 4 = 1 then flag s.cfg.irqBits.hop else false
    (radioWrite .dioMapping1 dio s).radio.dio = dio ∧
      (s.route.line0 ≠ .unknown →
        (radioWrite .dioMapping1 dio s).edge0 = (s.edge0 || (level0 dio && !level0 s.radio.dio)) ∧
        (radioWrite .dioMapping1 dio s).edge1 = (s.edge1 || (level1 dio && !level1 s.radio.dio))) ∧
      (s.route = ⟨.unknown, .unknown⟩ →
        (radioWrite .dioMapping1 dio s).edge0 = (s.edge0 || level0 dio) ∧
        (radioWrite .dioMapping1 dio s).edge1 = (s.edge1 || level1 dio))

/-! ### Host sends -/

/-- R152: an oversize payload is a result, not a fault: no radio access and no other change, checked after the caller
error. -/
def Obligations.OversizePayloadOnlyRecordsResult : Prop :=
  ∀ (i : Instr) (s : State), i ∈ sendCommands → 240 < s.plenReg.toNat →
    (sendAccepted s → exec i s = .next { s with result := .payloadTooLarge }) ∧
    (¬sendAccepted s → exec i s = .next (faulted .callerError s))

/-- R115: a SEND while a host send is in progress, a request is outstanding or a frame is in flight is a caller error:
refused before any state change. -/
def Obligations.SendWhileBusyIsCallerError : Prop :=
  ∀ (i : Instr) (s : State), i ∈ sendCommands →
    (s.eng = .awTx ∨ s.eng = .awAck ∨ s.outPid ≠ 0#16 ∨ (s.mode = some .tx ∧ s.avail = false)) →
      exec i s = .next (faulted .callerError s)

/-- R113 with RETRY = 0: no transmission; the request ends at once with TIMED_OUT and one log entry. -/
def Obligations.RequestWithoutAttemptsEndsAtOnce : Prop :=
  ∀ s : State, sendAccepted s → s.plenReg.toNat ≤ 240 → s.retryReg = 0#8 →
    exec .sendReq s = .next
      (logged .requestTimedOut 0
        { s with
          reqDst := s.destReg
          reqPayload := payloadOf s
          retry := 0#8
          timeout := s.timeoutReg
          attempt := 0#8
          opKind := some .req
          avail := true
          eng := .done
          result := .timedOut })

/-- R113, R114, R118: an accepted Request copies its operands, draws some nonzero packet_id, goes to Standby, loads the
frame, enters Transmit, and waits with the timer armed. -/
def Obligations.AcceptedRequestIsTransmitted : Prop :=
  ∀ (s : State) (f : BitVec 32), sendAccepted s → s.plenReg.toNat ≤ 240 → s.retryReg ≠ 0#8 → tunable s f →
    ∃ pid : BitVec 16, pid ≠ 0#16 ∧
      exec .sendReq s = .next
        { transmitted (frameOnAir s s.destReg pid 0#16 (payloadOf s)) .req f (requestCopied pid s) with
          eng := .awTx
          timerArmed := true }

/-- R116, R117, R118: an accepted Acknowledge or Broadcast is framed and transmitted once; RESULT is SENT. Its packet_id is
0 under P_HOST_PID = ZERO and some nonzero draw under DRAW. -/
def Obligations.AcceptedAckOrBroadcastIsTransmitted : Prop :=
  ∀ (s : State) (f : BitVec 32), sendAccepted s → s.plenReg.toNat ≤ 240 → tunable s f →
    ∃ (pid : BitVec 16) (n : Nat),
      (s.cfg.hostPid = .zero → pid = 0#16 ∧ n = 0) ∧ (s.cfg.hostPid = .draw → pid ≠ 0#16 ∧ n = 1) ∧
      exec .sendAck s = .next
        { transmitted (frameOnAir s s.destReg pid 1#16 (payloadOf s)) .ack f
            { s with opKind := some .ack, draws := s.draws + n } with
          eng := .awTx
          result := .sent } ∧
      exec .sendBcast s = .next
        { transmitted (frameOnAir s s.destReg pid 2#16 (payloadOf s)) .bcast f
            { s with opKind := some .bcast, draws := s.draws + n } with
          eng := .awTx
          result := .sent }

/-- R170 (V-PE-9): either resync fault inside a transmission ends the step at the raise: what was written before stands, the
mode is Standby, the frame is loaded, and nothing after the raise is done. For the three sends, under both values of
P_HOST_PID, a retry and an auto-ack. -/
def Obligations.ResyncFaultInsideSendKeepsEarlierWrites : Prop :=
  ∀ (s : State) (c : PeFault), resyncFails s c →
    (sendAccepted s → s.plenReg.toNat ≤ 240 →
      (s.retryReg ≠ 0#8 → ∃ pid : BitVec 16, pid ≠ 0#16 ∧
        exec .sendReq s = .next (faulted c (hopRead
          (loaded (frameOnAir s s.destReg pid 0#16 (payloadOf s)) .req (stoodBy (requestCopied pid s)))))) ∧
      ∃ (pid : BitVec 16) (n : Nat),
        (s.cfg.hostPid = .zero → pid = 0#16 ∧ n = 0) ∧ (s.cfg.hostPid = .draw → pid ≠ 0#16 ∧ n = 1) ∧
        exec .sendAck s = .next (faulted c (hopRead
          (loaded (frameOnAir s s.destReg pid 1#16 (payloadOf s)) .ack
            (stoodBy { s with opKind := some .ack, draws := s.draws + n })))) ∧
        exec .sendBcast s = .next (faulted c (hopRead
          (loaded (frameOnAir s s.destReg pid 2#16 (payloadOf s)) .bcast
            (stoodBy { s with opKind := some .bcast, draws := s.draws + n }))))) ∧
    (s.reqPayload.length ≤ 240 →
      exec .timerRetry s = .next (faulted c (hopRead
        (loaded (frameOnAir s s.reqDst s.outPid 0#16 s.reqPayload) .req (stoodBy { s with attempt := s.attempt + 1#8 }))))) ∧
    (∀ p, decodeFrame s.cfg.hdrOrder s.radio.rxFrame = some p → p.dst = s.cfg.nodeId →
      exec .rxReq s = .next (faulted c (hopRead
        (loaded (frameOnAir s p.src p.pid 1#16 []) .ack (stoodBy (measured s))))))

/-! ### Transmit-complete handlers -/

/-- R120: after a Request's TxDone the node listens; the engine waits for the Acknowledge if it was sending its own
request. The same through IRQ.TXDONE. A resync fault of the entry into RXC ends the step there: no record, no move of the
engine (R170). -/
def Obligations.TxdoneOfRequestListens : Prop :=
  (∀ (s : State) (c : PeFault), resumeFails s c → exec .txdoneReq s = .next (faulted c (hopRead s))) ∧
  ∀ (s : State) (f : BitVec 32) (snap : BitVec 8), resumable s f →
    let after (u : State) : State :=
      { resumed f u with
        evq := if u.cfg.txcOnRequest = true then u.evq ++ [⟨.transmitComplete, [], 0#8, 0#16⟩] else u.evq
        eng := if u.eng = .awTx ∧ u.opKind = some .req then .awAck else u.eng }
    exec .txdoneReq s = .next (after s) ∧
      (s.curKind = some .req → exec (.irqTxdone snap) s = .next (after { s with snap := snap }))

/-- R121: after an Acknowledge's or a Broadcast's TxDone the node is available, one record is queued, and the host's own
send of that kind is done; the mode stands. The same through IRQ.TXDONE. -/
def Obligations.TxdoneOfAckOrBroadcastFreesTheNode : Prop :=
  ∀ (s : State) (snap : BitVec 8) (low : BitVec 2),
    let after (u : State) : State :=
      { u with
        avail := true
        evq := u.evq ++ [⟨.transmitComplete, [], 0#8, 0#16⟩]
        eng := if u.eng = .awTx ∧ u.opKind = u.curKind then .done else u.eng }
    decode s.cfg.irqBits (.curKind 0b101#3) = .ok .txdoneAck ∧
      decode s.cfg.irqBits (.curKind 0b110#3) = .ok .txdoneBcast ∧
      decode s.cfg.irqBits (.curKind 0b000#3) = .ok (.txdoneNone 0#2) ∧
      exec .txdoneAck s = .next (after s) ∧ exec .txdoneBcast s = .next (after s) ∧
      (s.curKind = some .ack ∨ s.curKind = some .bcast →
        exec (.irqTxdone snap) s = .next (after { s with snap := snap })) ∧
      exec (.txdoneNone low) s = .next (logged .spuriousTxdone s.snap.toNat s) ∧
      (s.curKind = none → exec (.irqTxdone snap) s = .next (logged .spuriousTxdone snap.toNat { s with snap := snap }))

/-! ### Received-frame handlers -/

/-- R123, R124, R130, R131: a frame that fails the CRC check, is too short, or has an unsupported kind leaves one log entry
and the node listening: nothing else changes, but for the entry into RXC where it was in another mode; where that entry meets
a resync fault, the log entry stands and the step ends there (R170). -/
def Obligations.DroppedFramesAreLoggedAndListeningResumes : Prop :=
  (∀ (s : State) (c : PeFault), resumeFails s c →
    (∀ low : BitVec 17, exec (.rxCrcerr low) s = .next (faulted c (hopRead (logged .malformedCrc 0 s)))) ∧
    (∀ low : BitVec 16,
      exec (.rxShort low) s = .next (faulted c (hopRead (logged .malformedShort s.radio.rxFrame.length s)))) ∧
    (∀ kind : BitVec 16,
      exec (.rxUnsupported kind) s = .next (faulted c (hopRead (logged .unsupportedKind kind.toNat s))))) ∧
  ∀ (s : State) (f : BitVec 32), resumable s f →
    (∀ low : BitVec 17, exec (.rxCrcerr low) s = .next (resumed f (logged .malformedCrc 0 s))) ∧
    (∀ low : BitVec 16, exec (.rxShort low) s = .next (resumed f (logged .malformedShort s.radio.rxFrame.length s))) ∧
    (∀ kind : BitVec 16, exec (.rxUnsupported kind) s = .next (resumed f (logged .unsupportedKind kind.toNat s)))

/-- R123, S7: a reception flagged with a CRC error runs no handler of its frame: the frame is not read and no record is
queued, whether listening resumes or the entry into RXC meets a resync fault. -/
def Obligations.CrcErrorIsNeverDelivered : Prop :=
  ∀ (s : State) (snap : BitVec 8), flagSet snap s.cfg.irqBits.crc = true →
    (∀ f, resumable s f → exec (.irqRxdone snap) s = .next (resumed f (logged .malformedCrc 0 { s with snap := snap }))) ∧
    (∀ c, resumeFails s c →
      exec (.irqRxdone snap) s = .next (faulted c (hopRead (logged .malformedCrc 0 { s with snap := snap }))))

/-- R125, R126, R127: a Request to this node is measured, acknowledged to its source with its own packet_id and an empty
payload, and then delivered. -/
def Obligations.AddressedRequestIsAcknowledgedAndDelivered : Prop :=
  ∀ (s : State) (f : BitVec 32) (p : Packet), decodeFrame s.cfg.hdrOrder s.radio.rxFrame = some p →
    p.dst = s.cfg.nodeId → tunable s f →
      exec .rxReq s = .next
        (queued (delivered .requestReceived p.payload s)
          (transmitted (frameOnAir s p.src p.pid 1#16 []) .ack f (measured s)))

/-- R128, R204: an Acknowledge with the outstanding packet_id, whatever its source and destination, ends the request,
returns the node to Standby and sets the Availability Flag; R203 is the case of packet_id 0. -/
def Obligations.MatchingAcknowledgeEndsTheRequest : Prop :=
  ∀ (s : State) (p : Packet), decodeFrame s.cfg.hdrOrder s.radio.rxFrame = some p → p.pid = s.outPid →
    exec .rxAck s = .next
      (let t := stoodBy { s with outPid := 0#16 }
       if s.opKind = some .req ∧ (s.eng = .awTx ∨ s.eng = .awAck) then
         { t with avail := true, eng := .done, result := .success, timerArmed := false }
       else { t with avail := true })

/-- R125, R155, R128, R154: a Request to another node, and an Acknowledge with another packet_id, change nothing but that
listening resumes, or meets a resync fault: no frame sent, no record, no log entry. -/
def Obligations.FramesForOthersAreIgnored : Prop :=
  ∀ (s : State) (p : Packet), decodeFrame s.cfg.hdrOrder s.radio.rxFrame = some p →
    (∀ f, resumable s f →
      (p.dst ≠ s.cfg.nodeId → exec .rxReq s = .next (resumed f s)) ∧
      (p.pid ≠ s.outPid → exec .rxAck s = .next (resumed f s))) ∧
    (∀ c, resumeFails s c →
      (p.dst ≠ s.cfg.nodeId → exec .rxReq s = .next (faulted c (hopRead s))) ∧
      (p.pid ≠ s.outPid → exec .rxAck s = .next (faulted c (hopRead s))))

/-- R129, R123: a Broadcast is measured and delivered, whatever its destination, and listening resumes; IRQ.RXDONE does so
after reading the frame, when the CRC bit is clear and the packet_kind is 2. Where the entry into RXC meets a resync fault, the
record stands and the step ends there (R170). -/
def Obligations.BroadcastIsDelivered : Prop :=
  (∀ (s : State) (c : PeFault) (p : Packet), decodeFrame s.cfg.hdrOrder s.radio.rxFrame = some p → resumeFails s c →
    exec .rxBcast s = .next (faulted c (hopRead (queued (delivered .broadcastReceived p.payload s) (measured s))))) ∧
  ∀ (s : State) (f : BitVec 32) (p : Packet), decodeFrame s.cfg.hdrOrder s.radio.rxFrame = some p → resumable s f →
    let after (u : State) : State := resumed f (queued (delivered .broadcastReceived p.payload u) (measured u))
    exec .rxBcast s = .next (after s) ∧
      ∀ snap : BitVec 8, flagSet snap s.cfg.irqBits.crc = false → p.kind = 2#16 →
        exec (.irqRxdone snap) s =
          .next (after { s with snap := snap, trace := s.trace ++ [.fifoRead s.radio.rxFrame] })

/-! ### Dispatch branches without a frame -/

/-- R144: IRQ.HOP, selected by match 0x02 under mask 0x4A, resynchronises in TX and RXC, or ends with the fault of resync, and
does nothing in any other mode. -/
def Obligations.HopIsFollowedOnlyWhileActive : Prop :=
  ∀ (s : State) (snap : BitVec 8),
    (decode .default (.irq snap) = .ok (.irqHop snap) ↔ snap &&& 0x4A#8 = 0x02#8) ∧
    ((s.mode = some .tx ∨ s.mode = some .rxc) →
      (∀ f, tunable s f → exec (.irqHop snap) s = .next (tuned f { s with snap := snap })) ∧
      (tableEntry s = none → exec (.irqHop snap) s = .next (faulted .ftabUnwritten (hopRead { s with snap := snap }))) ∧
      (∀ f : BitVec 32, tableEntry s = some f → 16777216 ≤ steps s f →
        exec (.irqHop snap) s = .next (faulted .frfOverflow (hopRead { s with snap := snap })))) ∧
    (s.mode ≠ some .tx → s.mode ≠ some .rxc → exec (.irqHop snap) s = .next { s with snap := snap })

/-- R145: IRQ.NONE, selected by match 0x00 under mask 0x4A, makes one log entry and no other change. -/
def Obligations.UnrecognisedFlagsAreLogged : Prop :=
  ∀ (s : State) (snap : BitVec 8), (decode .default (.irq snap) = .ok (.irqNone snap) ↔ snap &&& 0x4A#8 = 0x00#8) ∧
    exec (.irqNone snap) s = .next (logged .unrecognizedIrq snap.toNat { s with snap := snap })

/-! ### Attempt timer and event queue -/

/-- R133, R114: a retry counts one more attempt and transmits the same request again, with the same packet_id. -/
def Obligations.RetryTransmitsTheSameRequest : Prop :=
  ∀ (s : State) (f : BitVec 32), s.reqPayload.length ≤ 240 → tunable s f →
    exec .timerRetry s = .next
      { transmitted (frameOnAir s s.reqDst s.outPid 0#16 s.reqPayload) .req f { s with attempt := s.attempt + 1#8 } with
        eng := .awTx
        timerArmed := true }

/-- R134: the final expiry, selected by TIMER = 1, abandons the request; the mode stands. -/
def Obligations.FinalExpiryAbandonsTheRequest : Prop :=
  (∀ b : IrqBits, decode b (.timer 1#1) = .ok .timerFinal) ∧ ∀ s : State, exec .timerFinal s = .next
    (logged .requestTimedOut s.attempt.toNat
      { s with outPid := 0#16, avail := true, eng := .done, result := .timedOut, timerArmed := false })

/-- R136: EVQ.POP removes the head record, whatever value is written; an empty queue is left unchanged; a full queue that held
dispatch lets it go. -/
def Obligations.PopRemovesTheHead : Prop :=
  (∀ s : State, s.evq = [] → exec .evqPop s = .next s) ∧
  (∀ (s : State) (r : EvRecord) (q : List EvRecord), s.evq = r :: q → exec .evqPop s = .next { s with evq := q }) ∧
  (∀ (s : State) (v : BitVec 8) (rest : List Event), s.script = .write8 0x012#10 v :: rest → s.fault = .clear →
    step s = .next { s with script := rest, evq := s.evq.drop 1 }) ∧
  ∀ (s t : State) (l : Line), s.evq.length = s.cfg.qdepth → 0 < s.cfg.qdepth → s.edge l = true → s.fault = .clear →
    exec .evqPop s = .next t → dispatchEnabled l s = false ∧ dispatchEnabled l t = true

/-! ### Radio events -/

/-- R187, R188, R189: what each radio event does to the radio, and that it touches nothing of the PE but the pending edges;
a radio event that is not enabled changes nothing, which is the model's choice (notes/assumptions/2.md). The flags have a bit
of their own each (R65). -/
def Obligations.RadioEventsChangeTheRadio : Prop :=
  ∀ (s : State) (rest : List Event), s.cfg.irqBits.distinct →
    let b := s.cfg.irqBits;
    (s.script = .radioTxDone :: rest →
      (s.radio.transmitting = true → ∃ e0 e1 n, step s = .next { s with
        script := rest, edge0 := s.edge0 || e0, edge1 := s.edge1 || e1, freeUses := n,
        radio := { s.radio with transmitting := false, irq := s.radio.irq ||| oneBit b.txDone, opmode := 0b001#3 } }) ∧
      (s.radio.transmitting = false → step s = .next { s with script := rest })) ∧
    (∀ frame crcErr snr rssi, s.script = .radioRxDone frame crcErr snr rssi :: rest →
      (frame.length ≤ 255 → s.radio.opmode = 0b101#3 ∨ s.radio.opmode = 0b110#3 →
        ∃ e0 e1 n, step s = .next { s with
          script := rest, edge0 := s.edge0 || e0, edge1 := s.edge1 || e1, freeUses := n,
          radio := { s.radio with
            rxFrame := frame, snrRaw := snr, rssiRaw := rssi,
            irq := s.radio.irq ||| 0x10#8 ||| oneBit b.rxDone ||| (if crcErr then oneBit b.crc else 0x00#8),
            opmode := if s.radio.opmode = 0b110#3 then 0b001#3 else s.radio.opmode } }) ∧
      (s.radio.opmode ≠ 0b101#3 → s.radio.opmode ≠ 0b110#3 → step s = .next { s with script := rest })) ∧
    (∀ ch, s.script = .radioHop ch :: rest →
      (s.radio.opmode = 0b011#3 ∨ s.radio.opmode = 0b101#3 ∨ s.radio.opmode = 0b110#3 →
        ∃ e0 e1 n, step s = .next { s with
          script := rest, edge0 := s.edge0 || e0, edge1 := s.edge1 || e1, freeUses := n,
          radio := { s.radio with hopCh := ch, irq := s.radio.irq ||| oneBit b.hop } }) ∧
      (s.radio.opmode ≠ 0b011#3 → s.radio.opmode ≠ 0b101#3 → s.radio.opmode ≠ 0b110#3 →
        step s = .next { s with script := rest })) ∧
    (∀ fl, s.script = .radioFlag fl :: rest →
      ∃ n, step s = .next { s with
        script := rest, freeUses := n,
        radio := { s.radio with irq := s.radio.irq |||
          (match fl with | .rxTimeout => 0x80#8 | .cadDone => 0x04#8 | .cadDetected => 0x01#8) } })

/-- R164, R190, R161: once lines are routed, a reception raises line 0 exactly when it is mapped to RxDone and the flag was
clear, a TxDone likewise when it is mapped to TxDone, and a hop raises line 1; a second rise merges (R28). The flags have a
bit of their own each (R65). -/
def Obligations.RadioEventsRaiseEdges : Prop :=
  ∀ (s t : State) (e : Event) (rest : List Event), s.cfg.irqBits.distinct → s.script = e :: rest →
    s.route.line0 ≠ .unknown → step s = .next t →
    let b := s.cfg.irqBits;
    (e = .radioTxDone → s.radio.transmitting = true →
      t.edge0 = (s.edge0 || (decide (s.radio.dio.toNat / 64 = 1) && !flagSet s.radio.irq b.txDone)) ∧ t.edge1 = s.edge1) ∧
    (∀ frame crcErr snr rssi, e = .radioRxDone frame crcErr snr rssi → frame.length ≤ 255 →
      s.radio.opmode = 0b101#3 ∨ s.radio.opmode = 0b110#3 →
      t.edge0 = (s.edge0 || (decide (s.radio.dio.toNat / 64 = 0) && !flagSet s.radio.irq b.rxDone)) ∧ t.edge1 = s.edge1) ∧
    (∀ ch, e = .radioHop ch → s.radio.opmode = 0b011#3 ∨ s.radio.opmode = 0b101#3 ∨ s.radio.opmode = 0b110#3 →
      t.edge1 = (s.edge1 || (decide (s.radio.dio.toNat / 16 % 4 = 1) && !flagSet s.radio.irq b.hop)) ∧ t.edge0 = s.edge0) ∧
    (∀ fl, e = .radioFlag fl → t.edge0 = s.edge0 ∧ t.edge1 = s.edge1)

/-! ### Codec and link quality -/

/-- R100 (which the spec derives from R98 and R99): the round trip, and the refusal of every payload over 240 bytes, under
both header byte orders. -/
def Obligations.CodecRoundTrip : Prop :=
  ∀ (o : HdrOrder) (src dst pid kind : BitVec 16) (payload : List (BitVec 8)),
    (payload.length ≤ 240 → ∃ frame, encodeFrame o src dst pid kind payload = some frame ∧
      frame.length = 8 + payload.length ∧ decodeFrame o frame = some ⟨src, dst, pid, kind, payload⟩) ∧
    (240 < payload.length → encodeFrame o src dst pid kind payload = none)

/-- R99: decoding fails exactly on fewer than 8 bytes; the header fields are read in the configured byte order, and the
payload is whatever follows them, with no upper bound. -/
def Obligations.DecodeFailsOnlyOnShortFrames : Prop :=
  ∀ (o : HdrOrder) (frame : List (BitVec 8)),
    let byte (i : Nat) : Nat := (frame.getD i 0#8).toNat
    let field (i : Nat) : BitVec 16 :=
      match o with
      | .big => BitVec.ofNat 16 (256 * byte i + byte (i + 1))
      | .little => BitVec.ofNat 16 (256 * byte (i + 1) + byte i)
    decodeFrame o frame =
      if frame.length < 8 then none
      else some { src := field 0, dst := field 2, pid := field 4, kind := field 6, payload := frame.drop 8 }

/-- R103: the RSSI is the exact value rounded to the nearest hundredth, never at a tie (R104), in the stated range, and the
reported 16-bit value is it. -/
def Obligations.RssiIsTheNearestHundredth : Prop :=
  (∀ s : State, (linkQualityOf s).2.toInt = rssiC s.radio.snrRaw.toInt s.radio.rssiRaw.toNat) ∧
  ∀ (snr raw : BitVec 8),
    (snr.toInt < 0 → rssiC snr.toInt raw.toNat = -15700 + 100 * (raw.toNat : Int) + 25 * snr.toInt ∧
      -18900 ≤ rssiC snr.toInt raw.toNat ∧ rssiC snr.toInt raw.toNat ≤ 9775) ∧
    (0 ≤ snr.toInt →
      -15 < 2 * (15 * (rssiC snr.toInt raw.toNat + 15700) - 1600 * (raw.toNat : Int)) ∧
      2 * (15 * (rssiC snr.toInt raw.toNat + 15700) - 1600 * (raw.toNat : Int)) < 15 ∧
      -15700 ≤ rssiC snr.toInt raw.toNat ∧ rssiC snr.toInt raw.toNat ≤ 11500)

/-! ### Frames and invariants -/

/-- R12, R29, R58, R97 and 10_state.md: what no operation writes: the configuration, the host's operand registers and every
byte of PAYLOAD, the script, the host's answer, and the radio's own registers. That MODE.SLEEP leaves the radio's registers
and its received frame as they are is the model's choice (notes/assumptions/28.md): R184 leaves it outside the PE. -/
def Obligations.OperationsLeaveOperandsAndRadioInputs : Prop :=
  ∀ (i : Instr) (s t : State), exec i s = .next t →
    t.cfg = s.cfg ∧ t.destReg = s.destReg ∧ t.retryReg = s.retryReg ∧ t.plenReg = s.plenReg ∧
    t.timeoutReg = s.timeoutReg ∧ (∀ a, Memory.read t.mem a = Memory.read s.mem a) ∧ t.script = s.script ∧
    t.hostData = s.hostData ∧ t.radio.irq = s.radio.irq ∧ t.radio.hopCh = s.radio.hopCh ∧
    t.radio.rxFrame = s.radio.rxFrame ∧ t.radio.snrRaw = s.radio.snrRaw ∧ t.radio.rssiRaw = s.radio.rssiRaw

/-- 10_state.md R17 to R21, R27 and, for `r.tx_frame`, R38: which operations may write the request record, the send bookkeeping
and the frame in flight; every other one leaves them. That MODE.SLEEP leaves `r.tx_frame` as it is is the model's choice
(notes/assumptions/28.md): R184 leaves it outside the PE. -/
def Obligations.OnlyNamedOperationsWriteTheRequest : Prop :=
  ∀ (i : Instr) (s t : State), exec i s = .next t →
    (i ≠ .sendReq → t.reqDst = s.reqDst ∧ t.reqPayload = s.reqPayload ∧ t.retry = s.retry ∧ t.timeout = s.timeout) ∧
    (i ∉ [.sendReq, .timerRetry] → t.attempt = s.attempt) ∧
    (i ∉ sendCommands → t.opKind = s.opKind) ∧
    (i ∉ [.sendReq, .rxAck, .timerFinal] → (∀ snap, i ≠ .irqRxdone snap) → t.outPid = s.outPid) ∧
    (i ∉ [.sendReq, .timerRetry, .rxAck, .timerFinal] → (∀ snap, i ≠ .irqRxdone snap) → t.timerArmed = s.timerArmed) ∧
    (i ∉ [.sendReq, .sendAck, .sendBcast, .rxAck, .timerFinal] → (∀ snap, i ≠ .irqRxdone snap) → t.result = s.result) ∧
    (i ∉ [.sendReq, .sendAck, .sendBcast, .timerRetry, .rxReq] → (∀ snap, i ≠ .irqRxdone snap) →
      t.curKind = s.curKind ∧ t.radio.txFrame = s.radio.txFrame)

/-- R137: every change of `s.eng` in a step, but for reset, is in the rule's table, from a state that meets the request
invariant (`StepKeepsRequestInvariant`). -/
def Obligations.EngineChangesOnlyByTheTable : Prop :=
  ∀ (s t : State) (e : Event) (rest : List Event), s.requestInvariant → s.script = e :: rest → e ≠ .peReset →
    step s = .next t → t.eng ≠ s.eng →
    let flag (bit : Fin 8) : Bool := flagSet s.radio.irq bit;
      ((s.eng = .idle ∨ s.eng = .done) ∧ s.plenReg.toNat ≤ 240 ∧
        ((e = .write16 0x000#10 0x0001#16 ∧ ((s.retryReg ≠ 0#8 ∧ t.eng = .awTx) ∨ (s.retryReg = 0#8 ∧ t.eng = .done))) ∨
          ((e = .write16 0x000#10 0x0011#16 ∨ e = .write16 0x000#10 0x0021#16) ∧ t.eng = .awTx))) ∨
      (s.eng = .awTx ∧ (∃ l, e = .dispatch l) ∧ flag s.cfg.irqBits.txDone = true ∧
        ((s.curKind = some .req ∧ s.opKind = some .req ∧ t.eng = .awAck) ∨
          ((s.curKind = some .ack ∨ s.curKind = some .bcast) ∧ s.opKind = s.curKind ∧ t.eng = .done))) ∨
      ((s.eng = .awTx ∨ s.eng = .awAck) ∧ s.opKind = some .req ∧ (∃ l, e = .dispatch l) ∧
        flag s.cfg.irqBits.txDone = false ∧ flag s.cfg.irqBits.rxDone = true ∧ flag s.cfg.irqBits.crc = false ∧
        (∃ p, decodeFrame s.cfg.hdrOrder s.radio.rxFrame = some p ∧ p.kind = 1#16 ∧ p.pid = s.outPid) ∧ t.eng = .done) ∨
      (e = .timerExpire ∧ (s.eng = .awTx ∨ s.eng = .awAck) ∧ s.timerArmed = true ∧
        ((s.attempt.toNat < s.retry.toNat ∧ t.eng = .awTx) ∨ (s.retry.toNat ≤ s.attempt.toNat ∧ t.eng = .done)))

/-- R182, R60: every step but PE reset only appends to the log, and every step only appends to the trace. -/
def Obligations.LogAndTraceOnlyGrow : Prop :=
  ∀ s t : State, step s = .next t →
    (s.script.head? ≠ some .peReset → ∃ more, t.log = s.log ++ more) ∧ ∃ more, t.trace = s.trace ++ more

/-- R138 (a), (b) and (d), which the spec derives from R113, R114, R115, R128, R133 and R134: every step keeps the request
bookkeeping sound. -/
def Obligations.StepKeepsRequestInvariant : Prop :=
  ∀ s t : State, s.requestInvariant → step s = .next t → t.requestInvariant

/-- R138 (c), S3: every step keeps that no Request frame in the trace has packet_id 0. -/
def Obligations.StepKeepsRequestsNumbered : Prop :=
  ∀ s t : State, s.requestInvariant → s.requestsNumbered → step s = .next t → t.requestsNumbered

/-- 10_state.md R20, R24, R29, R38: every step keeps every field in its range and the event queue within P_QDEPTH. -/
def Obligations.StepKeepsFieldsInRange : Prop :=
  ∀ s t : State, s.inRange → s.queueInRange → step s = .next t → t.inRange ∧ t.queueInRange

/-- R15, R207, R23, R94, R216: every step keeps that the shadow mode is the radio's or the radio went to Standby on its own,
that the radio transmits only in Transmit, and that the routing record tells the radio's mapping. That the mapping survives
a Sleep is the model's choice (notes/assumptions/28.md). -/
def Obligations.StepKeepsShadowAndRoute : Prop :=
  ∀ s t : State, s.shadowInvariant → s.routeInvariant → step s = .next t → t.shadowInvariant ∧ t.routeInvariant

/-- The invariants hold right after reset, and the host's view is that of R199 (STATUS 0x0001). The radio's reset values are
the model's choice (notes/assumptions/5.md), and the configuration too (notes/assumptions/3.md). -/
def Obligations.ResetMeetsTheInvariants : Prop :=
  State.reset.requestInvariant ∧ State.reset.requestsNumbered ∧ State.reset.inRange ∧ State.reset.queueInRange ∧
    State.reset.shadowInvariant ∧ State.reset.routeInvariant ∧ statusWord State.reset = 0x0001#16 ∧
    routeByte State.reset.route = 0x00#8 ∧ State.reset.quiescent = true

/-- R216, R188: while the radio transmits, no frame is received. That a reception which is not enabled is passed over, its
input consumed, is the model's choice (notes/assumptions/2.md). -/
def Obligations.TransmittingRadioReceivesNothing : Prop :=
  ∀ (s : State) (frame : List (BitVec 8)) (crcErr : Bool) (snr rssi : BitVec 8) (rest : List Event), s.shadowInvariant →
    s.radio.transmitting = true → s.script = .radioRxDone frame crcErr snr rssi :: rest →
      step s = .next { s with script := rest }
end

