-- ==== Sys2Proof/Laws/Claims.lean ====
section
/-! SUPPORT. One lemma per field per expected state of the statements: what each leaves in each field of the machine and of
the radio. -/

namespace Sys2Proof.Claims

open Sys2Proof.Machine

/-! `modeWritten` -/
@[simp] theorem modeWritten_cfg (m : RadioMode) (code : BitVec 3) (s : State) : (modeWritten m code s).cfg = s.cfg := rfl
@[simp] theorem modeWritten_eng (m : RadioMode) (code : BitVec 3) (s : State) : (modeWritten m code s).eng = s.eng := rfl
@[simp] theorem modeWritten_mode (m : RadioMode) (code : BitVec 3) (s : State) : (modeWritten m code s).mode = some m := rfl
@[simp] theorem modeWritten_avail (m : RadioMode) (code : BitVec 3) (s : State) : (modeWritten m code s).avail = s.avail := rfl
@[simp] theorem modeWritten_outPid (m : RadioMode) (code : BitVec 3) (s : State) : (modeWritten m code s).outPid = s.outPid := rfl
@[simp] theorem modeWritten_curKind (m : RadioMode) (code : BitVec 3) (s : State) : (modeWritten m code s).curKind = s.curKind := rfl
@[simp] theorem modeWritten_opKind (m : RadioMode) (code : BitVec 3) (s : State) : (modeWritten m code s).opKind = s.opKind := rfl
@[simp] theorem modeWritten_reqDst (m : RadioMode) (code : BitVec 3) (s : State) : (modeWritten m code s).reqDst = s.reqDst := rfl
@[simp] theorem modeWritten_reqPayload (m : RadioMode) (code : BitVec 3) (s : State) : (modeWritten m code s).reqPayload = s.reqPayload := rfl
@[simp] theorem modeWritten_retry (m : RadioMode) (code : BitVec 3) (s : State) : (modeWritten m code s).retry = s.retry := rfl
@[simp] theorem modeWritten_timeout (m : RadioMode) (code : BitVec 3) (s : State) : (modeWritten m code s).timeout = s.timeout := rfl
@[simp] theorem modeWritten_attempt (m : RadioMode) (code : BitVec 3) (s : State) : (modeWritten m code s).attempt = s.attempt := rfl
@[simp] theorem modeWritten_timerArmed (m : RadioMode) (code : BitVec 3) (s : State) : (modeWritten m code s).timerArmed = s.timerArmed := rfl
@[simp] theorem modeWritten_hopIdx (m : RadioMode) (code : BitVec 3) (s : State) : (modeWritten m code s).hopIdx = s.hopIdx := rfl
@[simp] theorem modeWritten_route (m : RadioMode) (code : BitVec 3) (s : State) : (modeWritten m code s).route = s.route := rfl
@[simp] theorem modeWritten_evq (m : RadioMode) (code : BitVec 3) (s : State) : (modeWritten m code s).evq = s.evq := rfl
@[simp] theorem modeWritten_log (m : RadioMode) (code : BitVec 3) (s : State) : (modeWritten m code s).log = s.log := rfl
@[simp] theorem modeWritten_fault (m : RadioMode) (code : BitVec 3) (s : State) : (modeWritten m code s).fault = s.fault := rfl
@[simp] theorem modeWritten_result (m : RadioMode) (code : BitVec 3) (s : State) : (modeWritten m code s).result = s.result := rfl
@[simp] theorem modeWritten_edge0 (m : RadioMode) (code : BitVec 3) (s : State) : (modeWritten m code s).edge0 = s.edge0 := rfl
@[simp] theorem modeWritten_edge1 (m : RadioMode) (code : BitVec 3) (s : State) : (modeWritten m code s).edge1 = s.edge1 := rfl
@[simp] theorem modeWritten_destReg (m : RadioMode) (code : BitVec 3) (s : State) : (modeWritten m code s).destReg = s.destReg := rfl
@[simp] theorem modeWritten_retryReg (m : RadioMode) (code : BitVec 3) (s : State) : (modeWritten m code s).retryReg = s.retryReg := rfl
@[simp] theorem modeWritten_plenReg (m : RadioMode) (code : BitVec 3) (s : State) : (modeWritten m code s).plenReg = s.plenReg := rfl
@[simp] theorem modeWritten_timeoutReg (m : RadioMode) (code : BitVec 3) (s : State) : (modeWritten m code s).timeoutReg = s.timeoutReg := rfl
@[simp] theorem modeWritten_mem (m : RadioMode) (code : BitVec 3) (s : State) : (modeWritten m code s).mem = s.mem := rfl
@[simp] theorem modeWritten_script (m : RadioMode) (code : BitVec 3) (s : State) : (modeWritten m code s).script = s.script := rfl
@[simp] theorem modeWritten_hostData (m : RadioMode) (code : BitVec 3) (s : State) : (modeWritten m code s).hostData = s.hostData := rfl
@[simp] theorem modeWritten_snap (m : RadioMode) (code : BitVec 3) (s : State) : (modeWritten m code s).snap = s.snap := rfl
@[simp] theorem modeWritten_draws (m : RadioMode) (code : BitVec 3) (s : State) : (modeWritten m code s).draws = s.draws := rfl
@[simp] theorem modeWritten_freeUses (m : RadioMode) (code : BitVec 3) (s : State) : (modeWritten m code s).freeUses = s.freeUses := rfl
@[simp] theorem modeWritten_radio_irq (m : RadioMode) (code : BitVec 3) (s : State) : (modeWritten m code s).radio.irq = s.radio.irq := rfl
@[simp] theorem modeWritten_radio_hopCh (m : RadioMode) (code : BitVec 3) (s : State) : (modeWritten m code s).radio.hopCh = s.radio.hopCh := rfl
@[simp] theorem modeWritten_radio_frf (m : RadioMode) (code : BitVec 3) (s : State) : (modeWritten m code s).radio.frf = s.radio.frf := rfl
@[simp] theorem modeWritten_radio_opmode (m : RadioMode) (code : BitVec 3) (s : State) : (modeWritten m code s).radio.opmode = code := rfl
@[simp] theorem modeWritten_radio_dio (m : RadioMode) (code : BitVec 3) (s : State) : (modeWritten m code s).radio.dio = s.radio.dio := rfl
@[simp] theorem modeWritten_radio_txFrame (m : RadioMode) (code : BitVec 3) (s : State) : (modeWritten m code s).radio.txFrame = s.radio.txFrame := rfl
@[simp] theorem modeWritten_radio_transmitting (m : RadioMode) (code : BitVec 3) (s : State) : (modeWritten m code s).radio.transmitting = decide (m = .tx) := rfl
@[simp] theorem modeWritten_radio_rxFrame (m : RadioMode) (code : BitVec 3) (s : State) : (modeWritten m code s).radio.rxFrame = s.radio.rxFrame := rfl
@[simp] theorem modeWritten_radio_snrRaw (m : RadioMode) (code : BitVec 3) (s : State) : (modeWritten m code s).radio.snrRaw = s.radio.snrRaw := rfl
@[simp] theorem modeWritten_radio_rssiRaw (m : RadioMode) (code : BitVec 3) (s : State) : (modeWritten m code s).radio.rssiRaw = s.radio.rssiRaw := rfl

/-! `routed` -/
@[simp] theorem routed_cfg (r : Route) (dio : Byte) (s : State) : (routed r dio s).cfg = s.cfg := rfl
@[simp] theorem routed_eng (r : Route) (dio : Byte) (s : State) : (routed r dio s).eng = s.eng := rfl
@[simp] theorem routed_mode (r : Route) (dio : Byte) (s : State) : (routed r dio s).mode = s.mode := rfl
@[simp] theorem routed_avail (r : Route) (dio : Byte) (s : State) : (routed r dio s).avail = s.avail := rfl
@[simp] theorem routed_outPid (r : Route) (dio : Byte) (s : State) : (routed r dio s).outPid = s.outPid := rfl
@[simp] theorem routed_curKind (r : Route) (dio : Byte) (s : State) : (routed r dio s).curKind = s.curKind := rfl
@[simp] theorem routed_opKind (r : Route) (dio : Byte) (s : State) : (routed r dio s).opKind = s.opKind := rfl
@[simp] theorem routed_reqDst (r : Route) (dio : Byte) (s : State) : (routed r dio s).reqDst = s.reqDst := rfl
@[simp] theorem routed_reqPayload (r : Route) (dio : Byte) (s : State) : (routed r dio s).reqPayload = s.reqPayload := rfl
@[simp] theorem routed_retry (r : Route) (dio : Byte) (s : State) : (routed r dio s).retry = s.retry := rfl
@[simp] theorem routed_timeout (r : Route) (dio : Byte) (s : State) : (routed r dio s).timeout = s.timeout := rfl
@[simp] theorem routed_attempt (r : Route) (dio : Byte) (s : State) : (routed r dio s).attempt = s.attempt := rfl
@[simp] theorem routed_timerArmed (r : Route) (dio : Byte) (s : State) : (routed r dio s).timerArmed = s.timerArmed := rfl
@[simp] theorem routed_hopIdx (r : Route) (dio : Byte) (s : State) : (routed r dio s).hopIdx = s.hopIdx := rfl
@[simp] theorem routed_route (r : Route) (dio : Byte) (s : State) : (routed r dio s).route = r := rfl
@[simp] theorem routed_evq (r : Route) (dio : Byte) (s : State) : (routed r dio s).evq = s.evq := rfl
@[simp] theorem routed_log (r : Route) (dio : Byte) (s : State) : (routed r dio s).log = s.log := rfl
@[simp] theorem routed_fault (r : Route) (dio : Byte) (s : State) : (routed r dio s).fault = s.fault := rfl
@[simp] theorem routed_result (r : Route) (dio : Byte) (s : State) : (routed r dio s).result = s.result := rfl
@[simp] theorem routed_destReg (r : Route) (dio : Byte) (s : State) : (routed r dio s).destReg = s.destReg := rfl
@[simp] theorem routed_retryReg (r : Route) (dio : Byte) (s : State) : (routed r dio s).retryReg = s.retryReg := rfl
@[simp] theorem routed_plenReg (r : Route) (dio : Byte) (s : State) : (routed r dio s).plenReg = s.plenReg := rfl
@[simp] theorem routed_timeoutReg (r : Route) (dio : Byte) (s : State) : (routed r dio s).timeoutReg = s.timeoutReg := rfl
@[simp] theorem routed_mem (r : Route) (dio : Byte) (s : State) : (routed r dio s).mem = s.mem := rfl
@[simp] theorem routed_script (r : Route) (dio : Byte) (s : State) : (routed r dio s).script = s.script := rfl
@[simp] theorem routed_hostData (r : Route) (dio : Byte) (s : State) : (routed r dio s).hostData = s.hostData := rfl
@[simp] theorem routed_snap (r : Route) (dio : Byte) (s : State) : (routed r dio s).snap = s.snap := rfl
@[simp] theorem routed_draws (r : Route) (dio : Byte) (s : State) : (routed r dio s).draws = s.draws := rfl
@[simp] theorem routed_freeUses (r : Route) (dio : Byte) (s : State) : (routed r dio s).freeUses = s.freeUses := rfl
@[simp] theorem routed_radio_irq (r : Route) (dio : Byte) (s : State) : (routed r dio s).radio.irq = s.radio.irq := rfl
@[simp] theorem routed_radio_hopCh (r : Route) (dio : Byte) (s : State) : (routed r dio s).radio.hopCh = s.radio.hopCh := rfl
@[simp] theorem routed_radio_frf (r : Route) (dio : Byte) (s : State) : (routed r dio s).radio.frf = s.radio.frf := rfl
@[simp] theorem routed_radio_opmode (r : Route) (dio : Byte) (s : State) : (routed r dio s).radio.opmode = s.radio.opmode := rfl
@[simp] theorem routed_radio_dio (r : Route) (dio : Byte) (s : State) : (routed r dio s).radio.dio = dio := rfl
@[simp] theorem routed_radio_txFrame (r : Route) (dio : Byte) (s : State) : (routed r dio s).radio.txFrame = s.radio.txFrame := rfl
@[simp] theorem routed_radio_transmitting (r : Route) (dio : Byte) (s : State) : (routed r dio s).radio.transmitting = s.radio.transmitting := rfl
@[simp] theorem routed_radio_rxFrame (r : Route) (dio : Byte) (s : State) : (routed r dio s).radio.rxFrame = s.radio.rxFrame := rfl
@[simp] theorem routed_radio_snrRaw (r : Route) (dio : Byte) (s : State) : (routed r dio s).radio.snrRaw = s.radio.snrRaw := rfl
@[simp] theorem routed_radio_rssiRaw (r : Route) (dio : Byte) (s : State) : (routed r dio s).radio.rssiRaw = s.radio.rssiRaw := rfl

/-! `stoodBy` -/
@[simp] theorem stoodBy_cfg (s : State) : (stoodBy s).cfg = s.cfg := by unfold stoodBy; split <;> rfl
@[simp] theorem stoodBy_eng (s : State) : (stoodBy s).eng = s.eng := by unfold stoodBy; split <;> rfl
@[simp] theorem stoodBy_mode (s : State) : (stoodBy s).mode = some .standby := by unfold stoodBy; split <;> first | assumption | rfl
@[simp] theorem stoodBy_avail (s : State) : (stoodBy s).avail = s.avail := by unfold stoodBy; split <;> rfl
@[simp] theorem stoodBy_outPid (s : State) : (stoodBy s).outPid = s.outPid := by unfold stoodBy; split <;> rfl
@[simp] theorem stoodBy_curKind (s : State) : (stoodBy s).curKind = s.curKind := by unfold stoodBy; split <;> rfl
@[simp] theorem stoodBy_opKind (s : State) : (stoodBy s).opKind = s.opKind := by unfold stoodBy; split <;> rfl
@[simp] theorem stoodBy_reqDst (s : State) : (stoodBy s).reqDst = s.reqDst := by unfold stoodBy; split <;> rfl
@[simp] theorem stoodBy_reqPayload (s : State) : (stoodBy s).reqPayload = s.reqPayload := by unfold stoodBy; split <;> rfl
@[simp] theorem stoodBy_retry (s : State) : (stoodBy s).retry = s.retry := by unfold stoodBy; split <;> rfl
@[simp] theorem stoodBy_timeout (s : State) : (stoodBy s).timeout = s.timeout := by unfold stoodBy; split <;> rfl
@[simp] theorem stoodBy_attempt (s : State) : (stoodBy s).attempt = s.attempt := by unfold stoodBy; split <;> rfl
@[simp] theorem stoodBy_timerArmed (s : State) : (stoodBy s).timerArmed = s.timerArmed := by unfold stoodBy; split <;> rfl
@[simp] theorem stoodBy_hopIdx (s : State) : (stoodBy s).hopIdx = s.hopIdx := by unfold stoodBy; split <;> rfl
@[simp] theorem stoodBy_evq (s : State) : (stoodBy s).evq = s.evq := by unfold stoodBy; split <;> rfl
@[simp] theorem stoodBy_log (s : State) : (stoodBy s).log = s.log := by unfold stoodBy; split <;> rfl
@[simp] theorem stoodBy_fault (s : State) : (stoodBy s).fault = s.fault := by unfold stoodBy; split <;> rfl
@[simp] theorem stoodBy_result (s : State) : (stoodBy s).result = s.result := by unfold stoodBy; split <;> rfl
@[simp] theorem stoodBy_destReg (s : State) : (stoodBy s).destReg = s.destReg := by unfold stoodBy; split <;> rfl
@[simp] theorem stoodBy_retryReg (s : State) : (stoodBy s).retryReg = s.retryReg := by unfold stoodBy; split <;> rfl
@[simp] theorem stoodBy_plenReg (s : State) : (stoodBy s).plenReg = s.plenReg := by unfold stoodBy; split <;> rfl
@[simp] theorem stoodBy_timeoutReg (s : State) : (stoodBy s).timeoutReg = s.timeoutReg := by unfold stoodBy; split <;> rfl
@[simp] theorem stoodBy_mem (s : State) : (stoodBy s).mem = s.mem := by unfold stoodBy; split <;> rfl
@[simp] theorem stoodBy_script (s : State) : (stoodBy s).script = s.script := by unfold stoodBy; split <;> rfl
@[simp] theorem stoodBy_hostData (s : State) : (stoodBy s).hostData = s.hostData := by unfold stoodBy; split <;> rfl
@[simp] theorem stoodBy_snap (s : State) : (stoodBy s).snap = s.snap := by unfold stoodBy; split <;> rfl
@[simp] theorem stoodBy_draws (s : State) : (stoodBy s).draws = s.draws := by unfold stoodBy; split <;> rfl
@[simp] theorem stoodBy_freeUses (s : State) : (stoodBy s).freeUses = s.freeUses := by unfold stoodBy; split <;> rfl
@[simp] theorem stoodBy_radio_irq (s : State) : (stoodBy s).radio.irq = s.radio.irq := by unfold stoodBy; split <;> rfl
@[simp] theorem stoodBy_radio_hopCh (s : State) : (stoodBy s).radio.hopCh = s.radio.hopCh := by unfold stoodBy; split <;> rfl
@[simp] theorem stoodBy_radio_frf (s : State) : (stoodBy s).radio.frf = s.radio.frf := by unfold stoodBy; split <;> rfl
@[simp] theorem stoodBy_radio_txFrame (s : State) : (stoodBy s).radio.txFrame = s.radio.txFrame := by unfold stoodBy; split <;> rfl
@[simp] theorem stoodBy_radio_rxFrame (s : State) : (stoodBy s).radio.rxFrame = s.radio.rxFrame := by unfold stoodBy; split <;> rfl
@[simp] theorem stoodBy_radio_snrRaw (s : State) : (stoodBy s).radio.snrRaw = s.radio.snrRaw := by unfold stoodBy; split <;> rfl
@[simp] theorem stoodBy_radio_rssiRaw (s : State) : (stoodBy s).radio.rssiRaw = s.radio.rssiRaw := by unfold stoodBy; split <;> rfl

/-! `hopRead` -/
@[simp] theorem hopRead_cfg (s : State) : (hopRead s).cfg = s.cfg := rfl
@[simp] theorem hopRead_eng (s : State) : (hopRead s).eng = s.eng := rfl
@[simp] theorem hopRead_mode (s : State) : (hopRead s).mode = s.mode := rfl
@[simp] theorem hopRead_avail (s : State) : (hopRead s).avail = s.avail := rfl
@[simp] theorem hopRead_outPid (s : State) : (hopRead s).outPid = s.outPid := rfl
@[simp] theorem hopRead_curKind (s : State) : (hopRead s).curKind = s.curKind := rfl
@[simp] theorem hopRead_opKind (s : State) : (hopRead s).opKind = s.opKind := rfl
@[simp] theorem hopRead_reqDst (s : State) : (hopRead s).reqDst = s.reqDst := rfl
@[simp] theorem hopRead_reqPayload (s : State) : (hopRead s).reqPayload = s.reqPayload := rfl
@[simp] theorem hopRead_retry (s : State) : (hopRead s).retry = s.retry := rfl
@[simp] theorem hopRead_timeout (s : State) : (hopRead s).timeout = s.timeout := rfl
@[simp] theorem hopRead_attempt (s : State) : (hopRead s).attempt = s.attempt := rfl
@[simp] theorem hopRead_timerArmed (s : State) : (hopRead s).timerArmed = s.timerArmed := rfl
@[simp] theorem hopRead_hopIdx (s : State) : (hopRead s).hopIdx = hopSlot s := rfl
@[simp] theorem hopRead_route (s : State) : (hopRead s).route = s.route := rfl
@[simp] theorem hopRead_evq (s : State) : (hopRead s).evq = s.evq := rfl
@[simp] theorem hopRead_log (s : State) : (hopRead s).log = s.log := rfl
@[simp] theorem hopRead_fault (s : State) : (hopRead s).fault = s.fault := rfl
@[simp] theorem hopRead_result (s : State) : (hopRead s).result = s.result := rfl
@[simp] theorem hopRead_edge0 (s : State) : (hopRead s).edge0 = s.edge0 := rfl
@[simp] theorem hopRead_edge1 (s : State) : (hopRead s).edge1 = s.edge1 := rfl
@[simp] theorem hopRead_destReg (s : State) : (hopRead s).destReg = s.destReg := rfl
@[simp] theorem hopRead_retryReg (s : State) : (hopRead s).retryReg = s.retryReg := rfl
@[simp] theorem hopRead_plenReg (s : State) : (hopRead s).plenReg = s.plenReg := rfl
@[simp] theorem hopRead_timeoutReg (s : State) : (hopRead s).timeoutReg = s.timeoutReg := rfl
@[simp] theorem hopRead_mem (s : State) : (hopRead s).mem = s.mem := rfl
@[simp] theorem hopRead_radio (s : State) : (hopRead s).radio = s.radio := rfl
@[simp] theorem hopRead_script (s : State) : (hopRead s).script = s.script := rfl
@[simp] theorem hopRead_hostData (s : State) : (hopRead s).hostData = s.hostData := rfl
@[simp] theorem hopRead_snap (s : State) : (hopRead s).snap = s.snap := rfl
@[simp] theorem hopRead_draws (s : State) : (hopRead s).draws = s.draws := rfl
@[simp] theorem hopRead_freeUses (s : State) : (hopRead s).freeUses = s.freeUses := rfl

/-! `tuned` -/
@[simp] theorem tuned_cfg (f : BitVec 32) (s : State) : (tuned f s).cfg = s.cfg := rfl
@[simp] theorem tuned_eng (f : BitVec 32) (s : State) : (tuned f s).eng = s.eng := rfl
@[simp] theorem tuned_mode (f : BitVec 32) (s : State) : (tuned f s).mode = s.mode := rfl
@[simp] theorem tuned_avail (f : BitVec 32) (s : State) : (tuned f s).avail = s.avail := rfl
@[simp] theorem tuned_outPid (f : BitVec 32) (s : State) : (tuned f s).outPid = s.outPid := rfl
@[simp] theorem tuned_curKind (f : BitVec 32) (s : State) : (tuned f s).curKind = s.curKind := rfl
@[simp] theorem tuned_opKind (f : BitVec 32) (s : State) : (tuned f s).opKind = s.opKind := rfl
@[simp] theorem tuned_reqDst (f : BitVec 32) (s : State) : (tuned f s).reqDst = s.reqDst := rfl
@[simp] theorem tuned_reqPayload (f : BitVec 32) (s : State) : (tuned f s).reqPayload = s.reqPayload := rfl
@[simp] theorem tuned_retry (f : BitVec 32) (s : State) : (tuned f s).retry = s.retry := rfl
@[simp] theorem tuned_timeout (f : BitVec 32) (s : State) : (tuned f s).timeout = s.timeout := rfl
@[simp] theorem tuned_attempt (f : BitVec 32) (s : State) : (tuned f s).attempt = s.attempt := rfl
@[simp] theorem tuned_timerArmed (f : BitVec 32) (s : State) : (tuned f s).timerArmed = s.timerArmed := rfl
@[simp] theorem tuned_hopIdx (f : BitVec 32) (s : State) : (tuned f s).hopIdx = hopSlot s := rfl
@[simp] theorem tuned_route (f : BitVec 32) (s : State) : (tuned f s).route = s.route := rfl
@[simp] theorem tuned_evq (f : BitVec 32) (s : State) : (tuned f s).evq = s.evq := rfl
@[simp] theorem tuned_log (f : BitVec 32) (s : State) : (tuned f s).log = s.log := rfl
@[simp] theorem tuned_fault (f : BitVec 32) (s : State) : (tuned f s).fault = s.fault := rfl
@[simp] theorem tuned_result (f : BitVec 32) (s : State) : (tuned f s).result = s.result := rfl
@[simp] theorem tuned_edge0 (f : BitVec 32) (s : State) : (tuned f s).edge0 = s.edge0 := rfl
@[simp] theorem tuned_edge1 (f : BitVec 32) (s : State) : (tuned f s).edge1 = s.edge1 := rfl
@[simp] theorem tuned_destReg (f : BitVec 32) (s : State) : (tuned f s).destReg = s.destReg := rfl
@[simp] theorem tuned_retryReg (f : BitVec 32) (s : State) : (tuned f s).retryReg = s.retryReg := rfl
@[simp] theorem tuned_plenReg (f : BitVec 32) (s : State) : (tuned f s).plenReg = s.plenReg := rfl
@[simp] theorem tuned_timeoutReg (f : BitVec 32) (s : State) : (tuned f s).timeoutReg = s.timeoutReg := rfl
@[simp] theorem tuned_mem (f : BitVec 32) (s : State) : (tuned f s).mem = s.mem := rfl
@[simp] theorem tuned_script (f : BitVec 32) (s : State) : (tuned f s).script = s.script := rfl
@[simp] theorem tuned_hostData (f : BitVec 32) (s : State) : (tuned f s).hostData = s.hostData := rfl
@[simp] theorem tuned_snap (f : BitVec 32) (s : State) : (tuned f s).snap = s.snap := rfl
@[simp] theorem tuned_draws (f : BitVec 32) (s : State) : (tuned f s).draws = s.draws := rfl
@[simp] theorem tuned_freeUses (f : BitVec 32) (s : State) : (tuned f s).freeUses = s.freeUses := rfl
@[simp] theorem tuned_radio_irq (f : BitVec 32) (s : State) : (tuned f s).radio.irq = s.radio.irq := rfl
@[simp] theorem tuned_radio_hopCh (f : BitVec 32) (s : State) : (tuned f s).radio.hopCh = s.radio.hopCh := rfl
@[simp] theorem tuned_radio_frf (f : BitVec 32) (s : State) : (tuned f s).radio.frf = carrier s f := rfl
@[simp] theorem tuned_radio_opmode (f : BitVec 32) (s : State) : (tuned f s).radio.opmode = s.radio.opmode := rfl
@[simp] theorem tuned_radio_dio (f : BitVec 32) (s : State) : (tuned f s).radio.dio = s.radio.dio := rfl
@[simp] theorem tuned_radio_txFrame (f : BitVec 32) (s : State) : (tuned f s).radio.txFrame = s.radio.txFrame := rfl
@[simp] theorem tuned_radio_transmitting (f : BitVec 32) (s : State) : (tuned f s).radio.transmitting = s.radio.transmitting := rfl
@[simp] theorem tuned_radio_rxFrame (f : BitVec 32) (s : State) : (tuned f s).radio.rxFrame = s.radio.rxFrame := rfl
@[simp] theorem tuned_radio_snrRaw (f : BitVec 32) (s : State) : (tuned f s).radio.snrRaw = s.radio.snrRaw := rfl
@[simp] theorem tuned_radio_rssiRaw (f : BitVec 32) (s : State) : (tuned f s).radio.rssiRaw = s.radio.rssiRaw := rfl

/-! `enteredTx` -/
@[simp] theorem enteredTx_cfg (f : BitVec 32) (s : State) : (enteredTx f s).cfg = s.cfg := rfl
@[simp] theorem enteredTx_eng (f : BitVec 32) (s : State) : (enteredTx f s).eng = s.eng := rfl
@[simp] theorem enteredTx_mode (f : BitVec 32) (s : State) : (enteredTx f s).mode = some .tx := rfl
@[simp] theorem enteredTx_avail (f : BitVec 32) (s : State) : (enteredTx f s).avail = false := rfl
@[simp] theorem enteredTx_outPid (f : BitVec 32) (s : State) : (enteredTx f s).outPid = s.outPid := rfl
@[simp] theorem enteredTx_curKind (f : BitVec 32) (s : State) : (enteredTx f s).curKind = s.curKind := rfl
@[simp] theorem enteredTx_opKind (f : BitVec 32) (s : State) : (enteredTx f s).opKind = s.opKind := rfl
@[simp] theorem enteredTx_reqDst (f : BitVec 32) (s : State) : (enteredTx f s).reqDst = s.reqDst := rfl
@[simp] theorem enteredTx_reqPayload (f : BitVec 32) (s : State) : (enteredTx f s).reqPayload = s.reqPayload := rfl
@[simp] theorem enteredTx_retry (f : BitVec 32) (s : State) : (enteredTx f s).retry = s.retry := rfl
@[simp] theorem enteredTx_timeout (f : BitVec 32) (s : State) : (enteredTx f s).timeout = s.timeout := rfl
@[simp] theorem enteredTx_attempt (f : BitVec 32) (s : State) : (enteredTx f s).attempt = s.attempt := rfl
@[simp] theorem enteredTx_timerArmed (f : BitVec 32) (s : State) : (enteredTx f s).timerArmed = s.timerArmed := rfl
@[simp] theorem enteredTx_hopIdx (f : BitVec 32) (s : State) : (enteredTx f s).hopIdx = hopSlot s := rfl
@[simp] theorem enteredTx_route (f : BitVec 32) (s : State) : (enteredTx f s).route = ⟨.txdone, .hop⟩ := rfl
@[simp] theorem enteredTx_evq (f : BitVec 32) (s : State) : (enteredTx f s).evq = s.evq := rfl
@[simp] theorem enteredTx_log (f : BitVec 32) (s : State) : (enteredTx f s).log = s.log := rfl
@[simp] theorem enteredTx_fault (f : BitVec 32) (s : State) : (enteredTx f s).fault = s.fault := rfl
@[simp] theorem enteredTx_result (f : BitVec 32) (s : State) : (enteredTx f s).result = s.result := rfl
@[simp] theorem enteredTx_destReg (f : BitVec 32) (s : State) : (enteredTx f s).destReg = s.destReg := rfl
@[simp] theorem enteredTx_retryReg (f : BitVec 32) (s : State) : (enteredTx f s).retryReg = s.retryReg := rfl
@[simp] theorem enteredTx_plenReg (f : BitVec 32) (s : State) : (enteredTx f s).plenReg = s.plenReg := rfl
@[simp] theorem enteredTx_timeoutReg (f : BitVec 32) (s : State) : (enteredTx f s).timeoutReg = s.timeoutReg := rfl
@[simp] theorem enteredTx_mem (f : BitVec 32) (s : State) : (enteredTx f s).mem = s.mem := rfl
@[simp] theorem enteredTx_script (f : BitVec 32) (s : State) : (enteredTx f s).script = s.script := rfl
@[simp] theorem enteredTx_hostData (f : BitVec 32) (s : State) : (enteredTx f s).hostData = s.hostData := rfl
@[simp] theorem enteredTx_snap (f : BitVec 32) (s : State) : (enteredTx f s).snap = s.snap := rfl
@[simp] theorem enteredTx_draws (f : BitVec 32) (s : State) : (enteredTx f s).draws = s.draws := rfl
@[simp] theorem enteredTx_freeUses (f : BitVec 32) (s : State) : (enteredTx f s).freeUses = s.freeUses := rfl
@[simp] theorem enteredTx_radio_irq (f : BitVec 32) (s : State) : (enteredTx f s).radio.irq = s.radio.irq := rfl
@[simp] theorem enteredTx_radio_hopCh (f : BitVec 32) (s : State) : (enteredTx f s).radio.hopCh = s.radio.hopCh := rfl
@[simp] theorem enteredTx_radio_frf (f : BitVec 32) (s : State) : (enteredTx f s).radio.frf = carrier s f := rfl
@[simp] theorem enteredTx_radio_opmode (f : BitVec 32) (s : State) : (enteredTx f s).radio.opmode = 0b011#3 := rfl
@[simp] theorem enteredTx_radio_dio (f : BitVec 32) (s : State) : (enteredTx f s).radio.dio = 0x5F#8 := rfl
@[simp] theorem enteredTx_radio_txFrame (f : BitVec 32) (s : State) : (enteredTx f s).radio.txFrame = s.radio.txFrame := rfl
@[simp] theorem enteredTx_radio_transmitting (f : BitVec 32) (s : State) : (enteredTx f s).radio.transmitting = true := rfl
@[simp] theorem enteredTx_radio_rxFrame (f : BitVec 32) (s : State) : (enteredTx f s).radio.rxFrame = s.radio.rxFrame := rfl
@[simp] theorem enteredTx_radio_snrRaw (f : BitVec 32) (s : State) : (enteredTx f s).radio.snrRaw = s.radio.snrRaw := rfl
@[simp] theorem enteredTx_radio_rssiRaw (f : BitVec 32) (s : State) : (enteredTx f s).radio.rssiRaw = s.radio.rssiRaw := rfl

/-! `enteredRxc` -/
@[simp] theorem enteredRxc_cfg (f : BitVec 32) (s : State) : (enteredRxc f s).cfg = s.cfg := rfl
@[simp] theorem enteredRxc_eng (f : BitVec 32) (s : State) : (enteredRxc f s).eng = s.eng := rfl
@[simp] theorem enteredRxc_mode (f : BitVec 32) (s : State) : (enteredRxc f s).mode = some .rxc := rfl
@[simp] theorem enteredRxc_avail (f : BitVec 32) (s : State) : (enteredRxc f s).avail = false := rfl
@[simp] theorem enteredRxc_outPid (f : BitVec 32) (s : State) : (enteredRxc f s).outPid = s.outPid := rfl
@[simp] theorem enteredRxc_curKind (f : BitVec 32) (s : State) : (enteredRxc f s).curKind = s.curKind := rfl
@[simp] theorem enteredRxc_opKind (f : BitVec 32) (s : State) : (enteredRxc f s).opKind = s.opKind := rfl
@[simp] theorem enteredRxc_reqDst (f : BitVec 32) (s : State) : (enteredRxc f s).reqDst = s.reqDst := rfl
@[simp] theorem enteredRxc_reqPayload (f : BitVec 32) (s : State) : (enteredRxc f s).reqPayload = s.reqPayload := rfl
@[simp] theorem enteredRxc_retry (f : BitVec 32) (s : State) : (enteredRxc f s).retry = s.retry := rfl
@[simp] theorem enteredRxc_timeout (f : BitVec 32) (s : State) : (enteredRxc f s).timeout = s.timeout := rfl
@[simp] theorem enteredRxc_attempt (f : BitVec 32) (s : State) : (enteredRxc f s).attempt = s.attempt := rfl
@[simp] theorem enteredRxc_timerArmed (f : BitVec 32) (s : State) : (enteredRxc f s).timerArmed = s.timerArmed := rfl
@[simp] theorem enteredRxc_hopIdx (f : BitVec 32) (s : State) : (enteredRxc f s).hopIdx = hopSlot s := rfl
@[simp] theorem enteredRxc_route (f : BitVec 32) (s : State) : (enteredRxc f s).route = ⟨.rxdone, .hop⟩ := rfl
@[simp] theorem enteredRxc_evq (f : BitVec 32) (s : State) : (enteredRxc f s).evq = s.evq := rfl
@[simp] theorem enteredRxc_log (f : BitVec 32) (s : State) : (enteredRxc f s).log = s.log := rfl
@[simp] theorem enteredRxc_fault (f : BitVec 32) (s : State) : (enteredRxc f s).fault = s.fault := rfl
@[simp] theorem enteredRxc_result (f : BitVec 32) (s : State) : (enteredRxc f s).result = s.result := rfl
@[simp] theorem enteredRxc_destReg (f : BitVec 32) (s : State) : (enteredRxc f s).destReg = s.destReg := rfl
@[simp] theorem enteredRxc_retryReg (f : BitVec 32) (s : State) : (enteredRxc f s).retryReg = s.retryReg := rfl
@[simp] theorem enteredRxc_plenReg (f : BitVec 32) (s : State) : (enteredRxc f s).plenReg = s.plenReg := rfl
@[simp] theorem enteredRxc_timeoutReg (f : BitVec 32) (s : State) : (enteredRxc f s).timeoutReg = s.timeoutReg := rfl
@[simp] theorem enteredRxc_mem (f : BitVec 32) (s : State) : (enteredRxc f s).mem = s.mem := rfl
@[simp] theorem enteredRxc_script (f : BitVec 32) (s : State) : (enteredRxc f s).script = s.script := rfl
@[simp] theorem enteredRxc_hostData (f : BitVec 32) (s : State) : (enteredRxc f s).hostData = s.hostData := rfl
@[simp] theorem enteredRxc_snap (f : BitVec 32) (s : State) : (enteredRxc f s).snap = s.snap := rfl
@[simp] theorem enteredRxc_draws (f : BitVec 32) (s : State) : (enteredRxc f s).draws = s.draws := rfl
@[simp] theorem enteredRxc_freeUses (f : BitVec 32) (s : State) : (enteredRxc f s).freeUses = s.freeUses := rfl
@[simp] theorem enteredRxc_radio_irq (f : BitVec 32) (s : State) : (enteredRxc f s).radio.irq = s.radio.irq := rfl
@[simp] theorem enteredRxc_radio_hopCh (f : BitVec 32) (s : State) : (enteredRxc f s).radio.hopCh = s.radio.hopCh := rfl
@[simp] theorem enteredRxc_radio_frf (f : BitVec 32) (s : State) : (enteredRxc f s).radio.frf = carrier s f := rfl
@[simp] theorem enteredRxc_radio_opmode (f : BitVec 32) (s : State) : (enteredRxc f s).radio.opmode = 0b101#3 := rfl
@[simp] theorem enteredRxc_radio_dio (f : BitVec 32) (s : State) : (enteredRxc f s).radio.dio = 0x1F#8 := rfl
@[simp] theorem enteredRxc_radio_txFrame (f : BitVec 32) (s : State) : (enteredRxc f s).radio.txFrame = s.radio.txFrame := rfl
@[simp] theorem enteredRxc_radio_transmitting (f : BitVec 32) (s : State) : (enteredRxc f s).radio.transmitting = false := rfl
@[simp] theorem enteredRxc_radio_rxFrame (f : BitVec 32) (s : State) : (enteredRxc f s).radio.rxFrame = s.radio.rxFrame := rfl
@[simp] theorem enteredRxc_radio_snrRaw (f : BitVec 32) (s : State) : (enteredRxc f s).radio.snrRaw = s.radio.snrRaw := rfl
@[simp] theorem enteredRxc_radio_rssiRaw (f : BitVec 32) (s : State) : (enteredRxc f s).radio.rssiRaw = s.radio.rssiRaw := rfl

/-! `resumed` -/
@[simp] theorem resumed_cfg (f : BitVec 32) (s : State) : (resumed f s).cfg = s.cfg := by unfold resumed; split <;> rfl
@[simp] theorem resumed_eng (f : BitVec 32) (s : State) : (resumed f s).eng = s.eng := by unfold resumed; split <;> rfl
@[simp] theorem resumed_mode (f : BitVec 32) (s : State) : (resumed f s).mode = some .rxc := by unfold resumed; split <;> first | assumption | rfl
@[simp] theorem resumed_outPid (f : BitVec 32) (s : State) : (resumed f s).outPid = s.outPid := by unfold resumed; split <;> rfl
@[simp] theorem resumed_curKind (f : BitVec 32) (s : State) : (resumed f s).curKind = s.curKind := by unfold resumed; split <;> rfl
@[simp] theorem resumed_opKind (f : BitVec 32) (s : State) : (resumed f s).opKind = s.opKind := by unfold resumed; split <;> rfl
@[simp] theorem resumed_reqDst (f : BitVec 32) (s : State) : (resumed f s).reqDst = s.reqDst := by unfold resumed; split <;> rfl
@[simp] theorem resumed_reqPayload (f : BitVec 32) (s : State) : (resumed f s).reqPayload = s.reqPayload := by unfold resumed; split <;> rfl
@[simp] theorem resumed_retry (f : BitVec 32) (s : State) : (resumed f s).retry = s.retry := by unfold resumed; split <;> rfl
@[simp] theorem resumed_timeout (f : BitVec 32) (s : State) : (resumed f s).timeout = s.timeout := by unfold resumed; split <;> rfl
@[simp] theorem resumed_attempt (f : BitVec 32) (s : State) : (resumed f s).attempt = s.attempt := by unfold resumed; split <;> rfl
@[simp] theorem resumed_timerArmed (f : BitVec 32) (s : State) : (resumed f s).timerArmed = s.timerArmed := by unfold resumed; split <;> rfl
@[simp] theorem resumed_evq (f : BitVec 32) (s : State) : (resumed f s).evq = s.evq := by unfold resumed; split <;> rfl
@[simp] theorem resumed_log (f : BitVec 32) (s : State) : (resumed f s).log = s.log := by unfold resumed; split <;> rfl
@[simp] theorem resumed_fault (f : BitVec 32) (s : State) : (resumed f s).fault = s.fault := by unfold resumed; split <;> rfl
@[simp] theorem resumed_result (f : BitVec 32) (s : State) : (resumed f s).result = s.result := by unfold resumed; split <;> rfl
@[simp] theorem resumed_destReg (f : BitVec 32) (s : State) : (resumed f s).destReg = s.destReg := by unfold resumed; split <;> rfl
@[simp] theorem resumed_retryReg (f : BitVec 32) (s : State) : (resumed f s).retryReg = s.retryReg := by unfold resumed; split <;> rfl
@[simp] theorem resumed_plenReg (f : BitVec 32) (s : State) : (resumed f s).plenReg = s.plenReg := by unfold resumed; split <;> rfl
@[simp] theorem resumed_timeoutReg (f : BitVec 32) (s : State) : (resumed f s).timeoutReg = s.timeoutReg := by unfold resumed; split <;> rfl
@[simp] theorem resumed_mem (f : BitVec 32) (s : State) : (resumed f s).mem = s.mem := by unfold resumed; split <;> rfl
@[simp] theorem resumed_script (f : BitVec 32) (s : State) : (resumed f s).script = s.script := by unfold resumed; split <;> rfl
@[simp] theorem resumed_hostData (f : BitVec 32) (s : State) : (resumed f s).hostData = s.hostData := by unfold resumed; split <;> rfl
@[simp] theorem resumed_snap (f : BitVec 32) (s : State) : (resumed f s).snap = s.snap := by unfold resumed; split <;> rfl
@[simp] theorem resumed_draws (f : BitVec 32) (s : State) : (resumed f s).draws = s.draws := by unfold resumed; split <;> rfl
@[simp] theorem resumed_freeUses (f : BitVec 32) (s : State) : (resumed f s).freeUses = s.freeUses := by unfold resumed; split <;> rfl
@[simp] theorem resumed_radio_irq (f : BitVec 32) (s : State) : (resumed f s).radio.irq = s.radio.irq := by unfold resumed; split <;> rfl
@[simp] theorem resumed_radio_hopCh (f : BitVec 32) (s : State) : (resumed f s).radio.hopCh = s.radio.hopCh := by unfold resumed; split <;> rfl
@[simp] theorem resumed_radio_txFrame (f : BitVec 32) (s : State) : (resumed f s).radio.txFrame = s.radio.txFrame := by unfold resumed; split <;> rfl
@[simp] theorem resumed_radio_rxFrame (f : BitVec 32) (s : State) : (resumed f s).radio.rxFrame = s.radio.rxFrame := by unfold resumed; split <;> rfl
@[simp] theorem resumed_radio_snrRaw (f : BitVec 32) (s : State) : (resumed f s).radio.snrRaw = s.radio.snrRaw := by unfold resumed; split <;> rfl
@[simp] theorem resumed_radio_rssiRaw (f : BitVec 32) (s : State) : (resumed f s).radio.rssiRaw = s.radio.rssiRaw := by unfold resumed; split <;> rfl

/-! `loaded` -/
@[simp] theorem loaded_cfg (frame : List Byte) (kind : Kind) (s : State) : (loaded frame kind s).cfg = s.cfg := rfl
@[simp] theorem loaded_eng (frame : List Byte) (kind : Kind) (s : State) : (loaded frame kind s).eng = s.eng := rfl
@[simp] theorem loaded_mode (frame : List Byte) (kind : Kind) (s : State) : (loaded frame kind s).mode = s.mode := rfl
@[simp] theorem loaded_avail (frame : List Byte) (kind : Kind) (s : State) : (loaded frame kind s).avail = s.avail := rfl
@[simp] theorem loaded_outPid (frame : List Byte) (kind : Kind) (s : State) : (loaded frame kind s).outPid = s.outPid := rfl
@[simp] theorem loaded_curKind (frame : List Byte) (kind : Kind) (s : State) : (loaded frame kind s).curKind = some kind := rfl
@[simp] theorem loaded_opKind (frame : List Byte) (kind : Kind) (s : State) : (loaded frame kind s).opKind = s.opKind := rfl
@[simp] theorem loaded_reqDst (frame : List Byte) (kind : Kind) (s : State) : (loaded frame kind s).reqDst = s.reqDst := rfl
@[simp] theorem loaded_reqPayload (frame : List Byte) (kind : Kind) (s : State) : (loaded frame kind s).reqPayload = s.reqPayload := rfl
@[simp] theorem loaded_retry (frame : List Byte) (kind : Kind) (s : State) : (loaded frame kind s).retry = s.retry := rfl
@[simp] theorem loaded_timeout (frame : List Byte) (kind : Kind) (s : State) : (loaded frame kind s).timeout = s.timeout := rfl
@[simp] theorem loaded_attempt (frame : List Byte) (kind : Kind) (s : State) : (loaded frame kind s).attempt = s.attempt := rfl
@[simp] theorem loaded_timerArmed (frame : List Byte) (kind : Kind) (s : State) : (loaded frame kind s).timerArmed = s.timerArmed := rfl
@[simp] theorem loaded_hopIdx (frame : List Byte) (kind : Kind) (s : State) : (loaded frame kind s).hopIdx = s.hopIdx := rfl
@[simp] theorem loaded_route (frame : List Byte) (kind : Kind) (s : State) : (loaded frame kind s).route = s.route := rfl
@[simp] theorem loaded_evq (frame : List Byte) (kind : Kind) (s : State) : (loaded frame kind s).evq = s.evq := rfl
@[simp] theorem loaded_log (frame : List Byte) (kind : Kind) (s : State) : (loaded frame kind s).log = s.log := rfl
@[simp] theorem loaded_fault (frame : List Byte) (kind : Kind) (s : State) : (loaded frame kind s).fault = s.fault := rfl
@[simp] theorem loaded_result (frame : List Byte) (kind : Kind) (s : State) : (loaded frame kind s).result = s.result := rfl
@[simp] theorem loaded_edge0 (frame : List Byte) (kind : Kind) (s : State) : (loaded frame kind s).edge0 = s.edge0 := rfl
@[simp] theorem loaded_edge1 (frame : List Byte) (kind : Kind) (s : State) : (loaded frame kind s).edge1 = s.edge1 := rfl
@[simp] theorem loaded_destReg (frame : List Byte) (kind : Kind) (s : State) : (loaded frame kind s).destReg = s.destReg := rfl
@[simp] theorem loaded_retryReg (frame : List Byte) (kind : Kind) (s : State) : (loaded frame kind s).retryReg = s.retryReg := rfl
@[simp] theorem loaded_plenReg (frame : List Byte) (kind : Kind) (s : State) : (loaded frame kind s).plenReg = s.plenReg := rfl
@[simp] theorem loaded_timeoutReg (frame : List Byte) (kind : Kind) (s : State) : (loaded frame kind s).timeoutReg = s.timeoutReg := rfl
@[simp] theorem loaded_mem (frame : List Byte) (kind : Kind) (s : State) : (loaded frame kind s).mem = s.mem := rfl
@[simp] theorem loaded_trace (frame : List Byte) (kind : Kind) (s : State) : (loaded frame kind s).trace = s.trace ++ [.fifoWrite frame] := rfl
@[simp] theorem loaded_script (frame : List Byte) (kind : Kind) (s : State) : (loaded frame kind s).script = s.script := rfl
@[simp] theorem loaded_hostData (frame : List Byte) (kind : Kind) (s : State) : (loaded frame kind s).hostData = s.hostData := rfl
@[simp] theorem loaded_snap (frame : List Byte) (kind : Kind) (s : State) : (loaded frame kind s).snap = s.snap := rfl
@[simp] theorem loaded_draws (frame : List Byte) (kind : Kind) (s : State) : (loaded frame kind s).draws = s.draws := rfl
@[simp] theorem loaded_freeUses (frame : List Byte) (kind : Kind) (s : State) : (loaded frame kind s).freeUses = s.freeUses := rfl
@[simp] theorem loaded_radio_irq (frame : List Byte) (kind : Kind) (s : State) : (loaded frame kind s).radio.irq = s.radio.irq := rfl
@[simp] theorem loaded_radio_hopCh (frame : List Byte) (kind : Kind) (s : State) : (loaded frame kind s).radio.hopCh = s.radio.hopCh := rfl
@[simp] theorem loaded_radio_frf (frame : List Byte) (kind : Kind) (s : State) : (loaded frame kind s).radio.frf = s.radio.frf := rfl
@[simp] theorem loaded_radio_opmode (frame : List Byte) (kind : Kind) (s : State) : (loaded frame kind s).radio.opmode = s.radio.opmode := rfl
@[simp] theorem loaded_radio_dio (frame : List Byte) (kind : Kind) (s : State) : (loaded frame kind s).radio.dio = s.radio.dio := rfl
@[simp] theorem loaded_radio_txFrame (frame : List Byte) (kind : Kind) (s : State) : (loaded frame kind s).radio.txFrame = frame := rfl
@[simp] theorem loaded_radio_transmitting (frame : List Byte) (kind : Kind) (s : State) : (loaded frame kind s).radio.transmitting = s.radio.transmitting := rfl
@[simp] theorem loaded_radio_rxFrame (frame : List Byte) (kind : Kind) (s : State) : (loaded frame kind s).radio.rxFrame = s.radio.rxFrame := rfl
@[simp] theorem loaded_radio_snrRaw (frame : List Byte) (kind : Kind) (s : State) : (loaded frame kind s).radio.snrRaw = s.radio.snrRaw := rfl
@[simp] theorem loaded_radio_rssiRaw (frame : List Byte) (kind : Kind) (s : State) : (loaded frame kind s).radio.rssiRaw = s.radio.rssiRaw := rfl

/-! `transmitted` -/
@[simp] theorem transmitted_cfg (frame : List Byte) (kind : Kind) (f : BitVec 32) (s : State) : (transmitted frame kind f s).cfg = s.cfg := by rw [transmitted, enteredTx_cfg, loaded_cfg, stoodBy_cfg]
@[simp] theorem transmitted_eng (frame : List Byte) (kind : Kind) (f : BitVec 32) (s : State) : (transmitted frame kind f s).eng = s.eng := by rw [transmitted, enteredTx_eng, loaded_eng, stoodBy_eng]
@[simp] theorem transmitted_mode (frame : List Byte) (kind : Kind) (f : BitVec 32) (s : State) : (transmitted frame kind f s).mode = some .tx := by rw [transmitted, enteredTx_mode]
@[simp] theorem transmitted_avail (frame : List Byte) (kind : Kind) (f : BitVec 32) (s : State) : (transmitted frame kind f s).avail = false := by rw [transmitted, enteredTx_avail]
@[simp] theorem transmitted_outPid (frame : List Byte) (kind : Kind) (f : BitVec 32) (s : State) : (transmitted frame kind f s).outPid = s.outPid := by rw [transmitted, enteredTx_outPid, loaded_outPid, stoodBy_outPid]
@[simp] theorem transmitted_curKind (frame : List Byte) (kind : Kind) (f : BitVec 32) (s : State) : (transmitted frame kind f s).curKind = some kind := by rw [transmitted, enteredTx_curKind, loaded_curKind]
@[simp] theorem transmitted_opKind (frame : List Byte) (kind : Kind) (f : BitVec 32) (s : State) : (transmitted frame kind f s).opKind = s.opKind := by rw [transmitted, enteredTx_opKind, loaded_opKind, stoodBy_opKind]
@[simp] theorem transmitted_reqDst (frame : List Byte) (kind : Kind) (f : BitVec 32) (s : State) : (transmitted frame kind f s).reqDst = s.reqDst := by rw [transmitted, enteredTx_reqDst, loaded_reqDst, stoodBy_reqDst]
@[simp] theorem transmitted_reqPayload (frame : List Byte) (kind : Kind) (f : BitVec 32) (s : State) : (transmitted frame kind f s).reqPayload = s.reqPayload := by rw [transmitted, enteredTx_reqPayload, loaded_reqPayload, stoodBy_reqPayload]
@[simp] theorem transmitted_retry (frame : List Byte) (kind : Kind) (f : BitVec 32) (s : State) : (transmitted frame kind f s).retry = s.retry := by rw [transmitted, enteredTx_retry, loaded_retry, stoodBy_retry]
@[simp] theorem transmitted_timeout (frame : List Byte) (kind : Kind) (f : BitVec 32) (s : State) : (transmitted frame kind f s).timeout = s.timeout := by rw [transmitted, enteredTx_timeout, loaded_timeout, stoodBy_timeout]
@[simp] theorem transmitted_attempt (frame : List Byte) (kind : Kind) (f : BitVec 32) (s : State) : (transmitted frame kind f s).attempt = s.attempt := by rw [transmitted, enteredTx_attempt, loaded_attempt, stoodBy_attempt]
@[simp] theorem transmitted_timerArmed (frame : List Byte) (kind : Kind) (f : BitVec 32) (s : State) : (transmitted frame kind f s).timerArmed = s.timerArmed := by rw [transmitted, enteredTx_timerArmed, loaded_timerArmed, stoodBy_timerArmed]
@[simp] theorem transmitted_route (frame : List Byte) (kind : Kind) (f : BitVec 32) (s : State) : (transmitted frame kind f s).route = ⟨.txdone, .hop⟩ := by rw [transmitted, enteredTx_route]
@[simp] theorem transmitted_evq (frame : List Byte) (kind : Kind) (f : BitVec 32) (s : State) : (transmitted frame kind f s).evq = s.evq := by rw [transmitted, enteredTx_evq, loaded_evq, stoodBy_evq]
@[simp] theorem transmitted_log (frame : List Byte) (kind : Kind) (f : BitVec 32) (s : State) : (transmitted frame kind f s).log = s.log := by rw [transmitted, enteredTx_log, loaded_log, stoodBy_log]
@[simp] theorem transmitted_fault (frame : List Byte) (kind : Kind) (f : BitVec 32) (s : State) : (transmitted frame kind f s).fault = s.fault := by rw [transmitted, enteredTx_fault, loaded_fault, stoodBy_fault]
@[simp] theorem transmitted_result (frame : List Byte) (kind : Kind) (f : BitVec 32) (s : State) : (transmitted frame kind f s).result = s.result := by rw [transmitted, enteredTx_result, loaded_result, stoodBy_result]
@[simp] theorem transmitted_destReg (frame : List Byte) (kind : Kind) (f : BitVec 32) (s : State) : (transmitted frame kind f s).destReg = s.destReg := by rw [transmitted, enteredTx_destReg, loaded_destReg, stoodBy_destReg]
@[simp] theorem transmitted_retryReg (frame : List Byte) (kind : Kind) (f : BitVec 32) (s : State) : (transmitted frame kind f s).retryReg = s.retryReg := by rw [transmitted, enteredTx_retryReg, loaded_retryReg, stoodBy_retryReg]
@[simp] theorem transmitted_plenReg (frame : List Byte) (kind : Kind) (f : BitVec 32) (s : State) : (transmitted frame kind f s).plenReg = s.plenReg := by rw [transmitted, enteredTx_plenReg, loaded_plenReg, stoodBy_plenReg]
@[simp] theorem transmitted_timeoutReg (frame : List Byte) (kind : Kind) (f : BitVec 32) (s : State) : (transmitted frame kind f s).timeoutReg = s.timeoutReg := by rw [transmitted, enteredTx_timeoutReg, loaded_timeoutReg, stoodBy_timeoutReg]
@[simp] theorem transmitted_mem (frame : List Byte) (kind : Kind) (f : BitVec 32) (s : State) : (transmitted frame kind f s).mem = s.mem := by rw [transmitted, enteredTx_mem, loaded_mem, stoodBy_mem]
@[simp] theorem transmitted_script (frame : List Byte) (kind : Kind) (f : BitVec 32) (s : State) : (transmitted frame kind f s).script = s.script := by rw [transmitted, enteredTx_script, loaded_script, stoodBy_script]
@[simp] theorem transmitted_hostData (frame : List Byte) (kind : Kind) (f : BitVec 32) (s : State) : (transmitted frame kind f s).hostData = s.hostData := by rw [transmitted, enteredTx_hostData, loaded_hostData, stoodBy_hostData]
@[simp] theorem transmitted_snap (frame : List Byte) (kind : Kind) (f : BitVec 32) (s : State) : (transmitted frame kind f s).snap = s.snap := by rw [transmitted, enteredTx_snap, loaded_snap, stoodBy_snap]
@[simp] theorem transmitted_draws (frame : List Byte) (kind : Kind) (f : BitVec 32) (s : State) : (transmitted frame kind f s).draws = s.draws := by rw [transmitted, enteredTx_draws, loaded_draws, stoodBy_draws]
@[simp] theorem transmitted_freeUses (frame : List Byte) (kind : Kind) (f : BitVec 32) (s : State) : (transmitted frame kind f s).freeUses = s.freeUses := by rw [transmitted, enteredTx_freeUses, loaded_freeUses, stoodBy_freeUses]
@[simp] theorem transmitted_radio_irq (frame : List Byte) (kind : Kind) (f : BitVec 32) (s : State) : (transmitted frame kind f s).radio.irq = s.radio.irq := by rw [transmitted, enteredTx_radio_irq, loaded_radio_irq, stoodBy_radio_irq]
@[simp] theorem transmitted_radio_hopCh (frame : List Byte) (kind : Kind) (f : BitVec 32) (s : State) : (transmitted frame kind f s).radio.hopCh = s.radio.hopCh := by rw [transmitted, enteredTx_radio_hopCh, loaded_radio_hopCh, stoodBy_radio_hopCh]
@[simp] theorem transmitted_radio_opmode (frame : List Byte) (kind : Kind) (f : BitVec 32) (s : State) : (transmitted frame kind f s).radio.opmode = 0b011#3 := by rw [transmitted, enteredTx_radio_opmode]
@[simp] theorem transmitted_radio_dio (frame : List Byte) (kind : Kind) (f : BitVec 32) (s : State) : (transmitted frame kind f s).radio.dio = 0x5F#8 := by rw [transmitted, enteredTx_radio_dio]
@[simp] theorem transmitted_radio_txFrame (frame : List Byte) (kind : Kind) (f : BitVec 32) (s : State) : (transmitted frame kind f s).radio.txFrame = frame := by rw [transmitted, enteredTx_radio_txFrame, loaded_radio_txFrame]
@[simp] theorem transmitted_radio_transmitting (frame : List Byte) (kind : Kind) (f : BitVec 32) (s : State) : (transmitted frame kind f s).radio.transmitting = true := by rw [transmitted, enteredTx_radio_transmitting]
@[simp] theorem transmitted_radio_rxFrame (frame : List Byte) (kind : Kind) (f : BitVec 32) (s : State) : (transmitted frame kind f s).radio.rxFrame = s.radio.rxFrame := by rw [transmitted, enteredTx_radio_rxFrame, loaded_radio_rxFrame, stoodBy_radio_rxFrame]
@[simp] theorem transmitted_radio_snrRaw (frame : List Byte) (kind : Kind) (f : BitVec 32) (s : State) : (transmitted frame kind f s).radio.snrRaw = s.radio.snrRaw := by rw [transmitted, enteredTx_radio_snrRaw, loaded_radio_snrRaw, stoodBy_radio_snrRaw]
@[simp] theorem transmitted_radio_rssiRaw (frame : List Byte) (kind : Kind) (f : BitVec 32) (s : State) : (transmitted frame kind f s).radio.rssiRaw = s.radio.rssiRaw := by rw [transmitted, enteredTx_radio_rssiRaw, loaded_radio_rssiRaw, stoodBy_radio_rssiRaw]

/-! `faulted` -/
@[simp] theorem faulted_cfg (c : PeFault) (s : State) : (faulted c s).cfg = s.cfg := rfl
@[simp] theorem faulted_eng (c : PeFault) (s : State) : (faulted c s).eng = s.eng := rfl
@[simp] theorem faulted_mode (c : PeFault) (s : State) : (faulted c s).mode = s.mode := rfl
@[simp] theorem faulted_avail (c : PeFault) (s : State) : (faulted c s).avail = s.avail := rfl
@[simp] theorem faulted_outPid (c : PeFault) (s : State) : (faulted c s).outPid = s.outPid := rfl
@[simp] theorem faulted_curKind (c : PeFault) (s : State) : (faulted c s).curKind = s.curKind := rfl
@[simp] theorem faulted_opKind (c : PeFault) (s : State) : (faulted c s).opKind = s.opKind := rfl
@[simp] theorem faulted_reqDst (c : PeFault) (s : State) : (faulted c s).reqDst = s.reqDst := rfl
@[simp] theorem faulted_reqPayload (c : PeFault) (s : State) : (faulted c s).reqPayload = s.reqPayload := rfl
@[simp] theorem faulted_retry (c : PeFault) (s : State) : (faulted c s).retry = s.retry := rfl
@[simp] theorem faulted_timeout (c : PeFault) (s : State) : (faulted c s).timeout = s.timeout := rfl
@[simp] theorem faulted_attempt (c : PeFault) (s : State) : (faulted c s).attempt = s.attempt := rfl
@[simp] theorem faulted_timerArmed (c : PeFault) (s : State) : (faulted c s).timerArmed = s.timerArmed := rfl
@[simp] theorem faulted_hopIdx (c : PeFault) (s : State) : (faulted c s).hopIdx = s.hopIdx := rfl
@[simp] theorem faulted_route (c : PeFault) (s : State) : (faulted c s).route = s.route := rfl
@[simp] theorem faulted_evq (c : PeFault) (s : State) : (faulted c s).evq = s.evq := rfl
@[simp] theorem faulted_log (c : PeFault) (s : State) : (faulted c s).log = s.log := rfl
@[simp] theorem faulted_fault (c : PeFault) (s : State) : (faulted c s).fault = if s.fault = .clear then c else s.fault := rfl
@[simp] theorem faulted_result (c : PeFault) (s : State) : (faulted c s).result = s.result := rfl
@[simp] theorem faulted_edge0 (c : PeFault) (s : State) : (faulted c s).edge0 = s.edge0 := rfl
@[simp] theorem faulted_edge1 (c : PeFault) (s : State) : (faulted c s).edge1 = s.edge1 := rfl
@[simp] theorem faulted_destReg (c : PeFault) (s : State) : (faulted c s).destReg = s.destReg := rfl
@[simp] theorem faulted_retryReg (c : PeFault) (s : State) : (faulted c s).retryReg = s.retryReg := rfl
@[simp] theorem faulted_plenReg (c : PeFault) (s : State) : (faulted c s).plenReg = s.plenReg := rfl
@[simp] theorem faulted_timeoutReg (c : PeFault) (s : State) : (faulted c s).timeoutReg = s.timeoutReg := rfl
@[simp] theorem faulted_mem (c : PeFault) (s : State) : (faulted c s).mem = s.mem := rfl
@[simp] theorem faulted_radio (c : PeFault) (s : State) : (faulted c s).radio = s.radio := rfl
@[simp] theorem faulted_trace (c : PeFault) (s : State) : (faulted c s).trace = s.trace := rfl
@[simp] theorem faulted_script (c : PeFault) (s : State) : (faulted c s).script = s.script := rfl
@[simp] theorem faulted_hostData (c : PeFault) (s : State) : (faulted c s).hostData = s.hostData := rfl
@[simp] theorem faulted_snap (c : PeFault) (s : State) : (faulted c s).snap = s.snap := rfl
@[simp] theorem faulted_draws (c : PeFault) (s : State) : (faulted c s).draws = s.draws := rfl
@[simp] theorem faulted_freeUses (c : PeFault) (s : State) : (faulted c s).freeUses = s.freeUses := rfl

/-! `measured` -/
@[simp] theorem measured_cfg (s : State) : (measured s).cfg = s.cfg := rfl
@[simp] theorem measured_eng (s : State) : (measured s).eng = s.eng := rfl
@[simp] theorem measured_mode (s : State) : (measured s).mode = s.mode := rfl
@[simp] theorem measured_avail (s : State) : (measured s).avail = s.avail := rfl
@[simp] theorem measured_outPid (s : State) : (measured s).outPid = s.outPid := rfl
@[simp] theorem measured_curKind (s : State) : (measured s).curKind = s.curKind := rfl
@[simp] theorem measured_opKind (s : State) : (measured s).opKind = s.opKind := rfl
@[simp] theorem measured_reqDst (s : State) : (measured s).reqDst = s.reqDst := rfl
@[simp] theorem measured_reqPayload (s : State) : (measured s).reqPayload = s.reqPayload := rfl
@[simp] theorem measured_retry (s : State) : (measured s).retry = s.retry := rfl
@[simp] theorem measured_timeout (s : State) : (measured s).timeout = s.timeout := rfl
@[simp] theorem measured_attempt (s : State) : (measured s).attempt = s.attempt := rfl
@[simp] theorem measured_timerArmed (s : State) : (measured s).timerArmed = s.timerArmed := rfl
@[simp] theorem measured_hopIdx (s : State) : (measured s).hopIdx = s.hopIdx := rfl
@[simp] theorem measured_route (s : State) : (measured s).route = s.route := rfl
@[simp] theorem measured_evq (s : State) : (measured s).evq = s.evq := rfl
@[simp] theorem measured_log (s : State) : (measured s).log = s.log := rfl
@[simp] theorem measured_fault (s : State) : (measured s).fault = s.fault := rfl
@[simp] theorem measured_result (s : State) : (measured s).result = s.result := rfl
@[simp] theorem measured_edge0 (s : State) : (measured s).edge0 = s.edge0 := rfl
@[simp] theorem measured_edge1 (s : State) : (measured s).edge1 = s.edge1 := rfl
@[simp] theorem measured_destReg (s : State) : (measured s).destReg = s.destReg := rfl
@[simp] theorem measured_retryReg (s : State) : (measured s).retryReg = s.retryReg := rfl
@[simp] theorem measured_plenReg (s : State) : (measured s).plenReg = s.plenReg := rfl
@[simp] theorem measured_timeoutReg (s : State) : (measured s).timeoutReg = s.timeoutReg := rfl
@[simp] theorem measured_mem (s : State) : (measured s).mem = s.mem := rfl
@[simp] theorem measured_radio (s : State) : (measured s).radio = s.radio := rfl
@[simp] theorem measured_script (s : State) : (measured s).script = s.script := rfl
@[simp] theorem measured_hostData (s : State) : (measured s).hostData = s.hostData := rfl
@[simp] theorem measured_snap (s : State) : (measured s).snap = s.snap := rfl
@[simp] theorem measured_draws (s : State) : (measured s).draws = s.draws := rfl
@[simp] theorem measured_freeUses (s : State) : (measured s).freeUses = s.freeUses := rfl

/-! `logged` -/
@[simp] theorem logged_cfg (c : LogCode) (n : Nat) (s : State) : (logged c n s).cfg = s.cfg := rfl
@[simp] theorem logged_eng (c : LogCode) (n : Nat) (s : State) : (logged c n s).eng = s.eng := rfl
@[simp] theorem logged_mode (c : LogCode) (n : Nat) (s : State) : (logged c n s).mode = s.mode := rfl
@[simp] theorem logged_avail (c : LogCode) (n : Nat) (s : State) : (logged c n s).avail = s.avail := rfl
@[simp] theorem logged_outPid (c : LogCode) (n : Nat) (s : State) : (logged c n s).outPid = s.outPid := rfl
@[simp] theorem logged_curKind (c : LogCode) (n : Nat) (s : State) : (logged c n s).curKind = s.curKind := rfl
@[simp] theorem logged_opKind (c : LogCode) (n : Nat) (s : State) : (logged c n s).opKind = s.opKind := rfl
@[simp] theorem logged_reqDst (c : LogCode) (n : Nat) (s : State) : (logged c n s).reqDst = s.reqDst := rfl
@[simp] theorem logged_reqPayload (c : LogCode) (n : Nat) (s : State) : (logged c n s).reqPayload = s.reqPayload := rfl
@[simp] theorem logged_retry (c : LogCode) (n : Nat) (s : State) : (logged c n s).retry = s.retry := rfl
@[simp] theorem logged_timeout (c : LogCode) (n : Nat) (s : State) : (logged c n s).timeout = s.timeout := rfl
@[simp] theorem logged_attempt (c : LogCode) (n : Nat) (s : State) : (logged c n s).attempt = s.attempt := rfl
@[simp] theorem logged_timerArmed (c : LogCode) (n : Nat) (s : State) : (logged c n s).timerArmed = s.timerArmed := rfl
@[simp] theorem logged_hopIdx (c : LogCode) (n : Nat) (s : State) : (logged c n s).hopIdx = s.hopIdx := rfl
@[simp] theorem logged_route (c : LogCode) (n : Nat) (s : State) : (logged c n s).route = s.route := rfl
@[simp] theorem logged_evq (c : LogCode) (n : Nat) (s : State) : (logged c n s).evq = s.evq := rfl
@[simp] theorem logged_log (c : LogCode) (n : Nat) (s : State) : (logged c n s).log = s.log ++ [⟨c, n⟩] := rfl
@[simp] theorem logged_fault (c : LogCode) (n : Nat) (s : State) : (logged c n s).fault = s.fault := rfl
@[simp] theorem logged_result (c : LogCode) (n : Nat) (s : State) : (logged c n s).result = s.result := rfl
@[simp] theorem logged_edge0 (c : LogCode) (n : Nat) (s : State) : (logged c n s).edge0 = s.edge0 := rfl
@[simp] theorem logged_edge1 (c : LogCode) (n : Nat) (s : State) : (logged c n s).edge1 = s.edge1 := rfl
@[simp] theorem logged_destReg (c : LogCode) (n : Nat) (s : State) : (logged c n s).destReg = s.destReg := rfl
@[simp] theorem logged_retryReg (c : LogCode) (n : Nat) (s : State) : (logged c n s).retryReg = s.retryReg := rfl
@[simp] theorem logged_plenReg (c : LogCode) (n : Nat) (s : State) : (logged c n s).plenReg = s.plenReg := rfl
@[simp] theorem logged_timeoutReg (c : LogCode) (n : Nat) (s : State) : (logged c n s).timeoutReg = s.timeoutReg := rfl
@[simp] theorem logged_mem (c : LogCode) (n : Nat) (s : State) : (logged c n s).mem = s.mem := rfl
@[simp] theorem logged_radio (c : LogCode) (n : Nat) (s : State) : (logged c n s).radio = s.radio := rfl
@[simp] theorem logged_trace (c : LogCode) (n : Nat) (s : State) : (logged c n s).trace = s.trace := rfl
@[simp] theorem logged_script (c : LogCode) (n : Nat) (s : State) : (logged c n s).script = s.script := rfl
@[simp] theorem logged_hostData (c : LogCode) (n : Nat) (s : State) : (logged c n s).hostData = s.hostData := rfl
@[simp] theorem logged_snap (c : LogCode) (n : Nat) (s : State) : (logged c n s).snap = s.snap := rfl
@[simp] theorem logged_draws (c : LogCode) (n : Nat) (s : State) : (logged c n s).draws = s.draws := rfl
@[simp] theorem logged_freeUses (c : LogCode) (n : Nat) (s : State) : (logged c n s).freeUses = s.freeUses := rfl

/-! `queued` -/
@[simp] theorem queued_cfg (r : EvRecord) (s : State) : (queued r s).cfg = s.cfg := rfl
@[simp] theorem queued_eng (r : EvRecord) (s : State) : (queued r s).eng = s.eng := rfl
@[simp] theorem queued_mode (r : EvRecord) (s : State) : (queued r s).mode = s.mode := rfl
@[simp] theorem queued_avail (r : EvRecord) (s : State) : (queued r s).avail = s.avail := rfl
@[simp] theorem queued_outPid (r : EvRecord) (s : State) : (queued r s).outPid = s.outPid := rfl
@[simp] theorem queued_curKind (r : EvRecord) (s : State) : (queued r s).curKind = s.curKind := rfl
@[simp] theorem queued_opKind (r : EvRecord) (s : State) : (queued r s).opKind = s.opKind := rfl
@[simp] theorem queued_reqDst (r : EvRecord) (s : State) : (queued r s).reqDst = s.reqDst := rfl
@[simp] theorem queued_reqPayload (r : EvRecord) (s : State) : (queued r s).reqPayload = s.reqPayload := rfl
@[simp] theorem queued_retry (r : EvRecord) (s : State) : (queued r s).retry = s.retry := rfl
@[simp] theorem queued_timeout (r : EvRecord) (s : State) : (queued r s).timeout = s.timeout := rfl
@[simp] theorem queued_attempt (r : EvRecord) (s : State) : (queued r s).attempt = s.attempt := rfl
@[simp] theorem queued_timerArmed (r : EvRecord) (s : State) : (queued r s).timerArmed = s.timerArmed := rfl
@[simp] theorem queued_hopIdx (r : EvRecord) (s : State) : (queued r s).hopIdx = s.hopIdx := rfl
@[simp] theorem queued_route (r : EvRecord) (s : State) : (queued r s).route = s.route := rfl
@[simp] theorem queued_evq (r : EvRecord) (s : State) : (queued r s).evq = s.evq ++ [r] := rfl
@[simp] theorem queued_log (r : EvRecord) (s : State) : (queued r s).log = s.log := rfl
@[simp] theorem queued_fault (r : EvRecord) (s : State) : (queued r s).fault = s.fault := rfl
@[simp] theorem queued_result (r : EvRecord) (s : State) : (queued r s).result = s.result := rfl
@[simp] theorem queued_edge0 (r : EvRecord) (s : State) : (queued r s).edge0 = s.edge0 := rfl
@[simp] theorem queued_edge1 (r : EvRecord) (s : State) : (queued r s).edge1 = s.edge1 := rfl
@[simp] theorem queued_destReg (r : EvRecord) (s : State) : (queued r s).destReg = s.destReg := rfl
@[simp] theorem queued_retryReg (r : EvRecord) (s : State) : (queued r s).retryReg = s.retryReg := rfl
@[simp] theorem queued_plenReg (r : EvRecord) (s : State) : (queued r s).plenReg = s.plenReg := rfl
@[simp] theorem queued_timeoutReg (r : EvRecord) (s : State) : (queued r s).timeoutReg = s.timeoutReg := rfl
@[simp] theorem queued_mem (r : EvRecord) (s : State) : (queued r s).mem = s.mem := rfl
@[simp] theorem queued_radio (r : EvRecord) (s : State) : (queued r s).radio = s.radio := rfl
@[simp] theorem queued_trace (r : EvRecord) (s : State) : (queued r s).trace = s.trace := rfl
@[simp] theorem queued_script (r : EvRecord) (s : State) : (queued r s).script = s.script := rfl
@[simp] theorem queued_hostData (r : EvRecord) (s : State) : (queued r s).hostData = s.hostData := rfl
@[simp] theorem queued_snap (r : EvRecord) (s : State) : (queued r s).snap = s.snap := rfl
@[simp] theorem queued_draws (r : EvRecord) (s : State) : (queued r s).draws = s.draws := rfl
@[simp] theorem queued_freeUses (r : EvRecord) (s : State) : (queued r s).freeUses = s.freeUses := rfl

/-! `requestCopied` -/
@[simp] theorem requestCopied_cfg (pid : Half) (s : State) : (requestCopied pid s).cfg = s.cfg := rfl
@[simp] theorem requestCopied_eng (pid : Half) (s : State) : (requestCopied pid s).eng = s.eng := rfl
@[simp] theorem requestCopied_mode (pid : Half) (s : State) : (requestCopied pid s).mode = s.mode := rfl
@[simp] theorem requestCopied_avail (pid : Half) (s : State) : (requestCopied pid s).avail = s.avail := rfl
@[simp] theorem requestCopied_outPid (pid : Half) (s : State) : (requestCopied pid s).outPid = pid := rfl
@[simp] theorem requestCopied_curKind (pid : Half) (s : State) : (requestCopied pid s).curKind = s.curKind := rfl
@[simp] theorem requestCopied_opKind (pid : Half) (s : State) : (requestCopied pid s).opKind = some .req := rfl
@[simp] theorem requestCopied_reqDst (pid : Half) (s : State) : (requestCopied pid s).reqDst = s.destReg := rfl
@[simp] theorem requestCopied_reqPayload (pid : Half) (s : State) : (requestCopied pid s).reqPayload = payloadOf s := rfl
@[simp] theorem requestCopied_retry (pid : Half) (s : State) : (requestCopied pid s).retry = s.retryReg := rfl
@[simp] theorem requestCopied_timeout (pid : Half) (s : State) : (requestCopied pid s).timeout = s.timeoutReg := rfl
@[simp] theorem requestCopied_attempt (pid : Half) (s : State) : (requestCopied pid s).attempt = 1#8 := rfl
@[simp] theorem requestCopied_timerArmed (pid : Half) (s : State) : (requestCopied pid s).timerArmed = s.timerArmed := rfl
@[simp] theorem requestCopied_hopIdx (pid : Half) (s : State) : (requestCopied pid s).hopIdx = s.hopIdx := rfl
@[simp] theorem requestCopied_route (pid : Half) (s : State) : (requestCopied pid s).route = s.route := rfl
@[simp] theorem requestCopied_evq (pid : Half) (s : State) : (requestCopied pid s).evq = s.evq := rfl
@[simp] theorem requestCopied_log (pid : Half) (s : State) : (requestCopied pid s).log = s.log := rfl
@[simp] theorem requestCopied_fault (pid : Half) (s : State) : (requestCopied pid s).fault = s.fault := rfl
@[simp] theorem requestCopied_result (pid : Half) (s : State) : (requestCopied pid s).result = .busy := rfl
@[simp] theorem requestCopied_edge0 (pid : Half) (s : State) : (requestCopied pid s).edge0 = s.edge0 := rfl
@[simp] theorem requestCopied_edge1 (pid : Half) (s : State) : (requestCopied pid s).edge1 = s.edge1 := rfl
@[simp] theorem requestCopied_destReg (pid : Half) (s : State) : (requestCopied pid s).destReg = s.destReg := rfl
@[simp] theorem requestCopied_retryReg (pid : Half) (s : State) : (requestCopied pid s).retryReg = s.retryReg := rfl
@[simp] theorem requestCopied_plenReg (pid : Half) (s : State) : (requestCopied pid s).plenReg = s.plenReg := rfl
@[simp] theorem requestCopied_timeoutReg (pid : Half) (s : State) : (requestCopied pid s).timeoutReg = s.timeoutReg := rfl
@[simp] theorem requestCopied_mem (pid : Half) (s : State) : (requestCopied pid s).mem = s.mem := rfl
@[simp] theorem requestCopied_radio (pid : Half) (s : State) : (requestCopied pid s).radio = s.radio := rfl
@[simp] theorem requestCopied_trace (pid : Half) (s : State) : (requestCopied pid s).trace = s.trace := rfl
@[simp] theorem requestCopied_script (pid : Half) (s : State) : (requestCopied pid s).script = s.script := rfl
@[simp] theorem requestCopied_hostData (pid : Half) (s : State) : (requestCopied pid s).hostData = s.hostData := rfl
@[simp] theorem requestCopied_snap (pid : Half) (s : State) : (requestCopied pid s).snap = s.snap := rfl
@[simp] theorem requestCopied_draws (pid : Half) (s : State) : (requestCopied pid s).draws = s.draws + 1 := rfl
@[simp] theorem requestCopied_freeUses (pid : Half) (s : State) : (requestCopied pid s).freeUses = s.freeUses := rfl

/-! `dispatched` -/
@[simp] theorem dispatched_cfg (l : Line) (s : State) : (dispatched l s).cfg = s.cfg := rfl
@[simp] theorem dispatched_eng (l : Line) (s : State) : (dispatched l s).eng = s.eng := rfl
@[simp] theorem dispatched_mode (l : Line) (s : State) : (dispatched l s).mode = s.mode := rfl
@[simp] theorem dispatched_avail (l : Line) (s : State) : (dispatched l s).avail = s.avail := rfl
@[simp] theorem dispatched_outPid (l : Line) (s : State) : (dispatched l s).outPid = s.outPid := rfl
@[simp] theorem dispatched_curKind (l : Line) (s : State) : (dispatched l s).curKind = s.curKind := rfl
@[simp] theorem dispatched_opKind (l : Line) (s : State) : (dispatched l s).opKind = s.opKind := rfl
@[simp] theorem dispatched_reqDst (l : Line) (s : State) : (dispatched l s).reqDst = s.reqDst := rfl
@[simp] theorem dispatched_reqPayload (l : Line) (s : State) : (dispatched l s).reqPayload = s.reqPayload := rfl
@[simp] theorem dispatched_retry (l : Line) (s : State) : (dispatched l s).retry = s.retry := rfl
@[simp] theorem dispatched_timeout (l : Line) (s : State) : (dispatched l s).timeout = s.timeout := rfl
@[simp] theorem dispatched_attempt (l : Line) (s : State) : (dispatched l s).attempt = s.attempt := rfl
@[simp] theorem dispatched_timerArmed (l : Line) (s : State) : (dispatched l s).timerArmed = s.timerArmed := rfl
@[simp] theorem dispatched_hopIdx (l : Line) (s : State) : (dispatched l s).hopIdx = s.hopIdx := rfl
@[simp] theorem dispatched_route (l : Line) (s : State) : (dispatched l s).route = s.route := rfl
@[simp] theorem dispatched_evq (l : Line) (s : State) : (dispatched l s).evq = s.evq := rfl
@[simp] theorem dispatched_log (l : Line) (s : State) : (dispatched l s).log = s.log := rfl
@[simp] theorem dispatched_fault (l : Line) (s : State) : (dispatched l s).fault = s.fault := rfl
@[simp] theorem dispatched_result (l : Line) (s : State) : (dispatched l s).result = s.result := rfl
@[simp] theorem dispatched_destReg (l : Line) (s : State) : (dispatched l s).destReg = s.destReg := rfl
@[simp] theorem dispatched_retryReg (l : Line) (s : State) : (dispatched l s).retryReg = s.retryReg := rfl
@[simp] theorem dispatched_plenReg (l : Line) (s : State) : (dispatched l s).plenReg = s.plenReg := rfl
@[simp] theorem dispatched_timeoutReg (l : Line) (s : State) : (dispatched l s).timeoutReg = s.timeoutReg := rfl
@[simp] theorem dispatched_mem (l : Line) (s : State) : (dispatched l s).mem = s.mem := rfl
@[simp] theorem dispatched_trace (l : Line) (s : State) : (dispatched l s).trace = s.trace ++ [.read .irqFlags s.radio.irq, .write .irqFlags 0xFF#8] := rfl
@[simp] theorem dispatched_script (l : Line) (s : State) : (dispatched l s).script = s.script := rfl
@[simp] theorem dispatched_hostData (l : Line) (s : State) : (dispatched l s).hostData = s.hostData := rfl
@[simp] theorem dispatched_snap (l : Line) (s : State) : (dispatched l s).snap = s.snap := rfl
@[simp] theorem dispatched_draws (l : Line) (s : State) : (dispatched l s).draws = s.draws := rfl
@[simp] theorem dispatched_freeUses (l : Line) (s : State) : (dispatched l s).freeUses = s.freeUses := rfl
@[simp] theorem dispatched_radio_irq (l : Line) (s : State) : (dispatched l s).radio.irq = 0#8 := rfl
@[simp] theorem dispatched_radio_hopCh (l : Line) (s : State) : (dispatched l s).radio.hopCh = s.radio.hopCh := rfl
@[simp] theorem dispatched_radio_frf (l : Line) (s : State) : (dispatched l s).radio.frf = s.radio.frf := rfl
@[simp] theorem dispatched_radio_opmode (l : Line) (s : State) : (dispatched l s).radio.opmode = s.radio.opmode := rfl
@[simp] theorem dispatched_radio_dio (l : Line) (s : State) : (dispatched l s).radio.dio = s.radio.dio := rfl
@[simp] theorem dispatched_radio_txFrame (l : Line) (s : State) : (dispatched l s).radio.txFrame = s.radio.txFrame := rfl
@[simp] theorem dispatched_radio_transmitting (l : Line) (s : State) : (dispatched l s).radio.transmitting = s.radio.transmitting := rfl
@[simp] theorem dispatched_radio_rxFrame (l : Line) (s : State) : (dispatched l s).radio.rxFrame = s.radio.rxFrame := rfl
@[simp] theorem dispatched_radio_snrRaw (l : Line) (s : State) : (dispatched l s).radio.snrRaw = s.radio.snrRaw := rfl
@[simp] theorem dispatched_radio_rssiRaw (l : Line) (s : State) : (dispatched l s).radio.rssiRaw = s.radio.rssiRaw := rfl

end Sys2Proof.Claims
end

