-- ==== Sys2Proof/Laws/State.lean ====
section
/-! SUPPORT. One lemma per field per update of the state: what each of the machine's updates leaves in each field. Later
proofs cite these through simp and unfold no update. -/

namespace Sys2Proof.Machine

/-! `record` -/
@[simp] theorem record_cfg (a : Access) (s : State) : (record a s).cfg = s.cfg := rfl
@[simp] theorem record_eng (a : Access) (s : State) : (record a s).eng = s.eng := rfl
@[simp] theorem record_mode (a : Access) (s : State) : (record a s).mode = s.mode := rfl
@[simp] theorem record_avail (a : Access) (s : State) : (record a s).avail = s.avail := rfl
@[simp] theorem record_outPid (a : Access) (s : State) : (record a s).outPid = s.outPid := rfl
@[simp] theorem record_curKind (a : Access) (s : State) : (record a s).curKind = s.curKind := rfl
@[simp] theorem record_opKind (a : Access) (s : State) : (record a s).opKind = s.opKind := rfl
@[simp] theorem record_reqDst (a : Access) (s : State) : (record a s).reqDst = s.reqDst := rfl
@[simp] theorem record_reqPayload (a : Access) (s : State) : (record a s).reqPayload = s.reqPayload := rfl
@[simp] theorem record_retry (a : Access) (s : State) : (record a s).retry = s.retry := rfl
@[simp] theorem record_timeout (a : Access) (s : State) : (record a s).timeout = s.timeout := rfl
@[simp] theorem record_attempt (a : Access) (s : State) : (record a s).attempt = s.attempt := rfl
@[simp] theorem record_timerArmed (a : Access) (s : State) : (record a s).timerArmed = s.timerArmed := rfl
@[simp] theorem record_hopIdx (a : Access) (s : State) : (record a s).hopIdx = s.hopIdx := rfl
@[simp] theorem record_route (a : Access) (s : State) : (record a s).route = s.route := rfl
@[simp] theorem record_evq (a : Access) (s : State) : (record a s).evq = s.evq := rfl
@[simp] theorem record_log (a : Access) (s : State) : (record a s).log = s.log := rfl
@[simp] theorem record_fault (a : Access) (s : State) : (record a s).fault = s.fault := rfl
@[simp] theorem record_result (a : Access) (s : State) : (record a s).result = s.result := rfl
@[simp] theorem record_edge0 (a : Access) (s : State) : (record a s).edge0 = s.edge0 := rfl
@[simp] theorem record_edge1 (a : Access) (s : State) : (record a s).edge1 = s.edge1 := rfl
@[simp] theorem record_destReg (a : Access) (s : State) : (record a s).destReg = s.destReg := rfl
@[simp] theorem record_retryReg (a : Access) (s : State) : (record a s).retryReg = s.retryReg := rfl
@[simp] theorem record_plenReg (a : Access) (s : State) : (record a s).plenReg = s.plenReg := rfl
@[simp] theorem record_timeoutReg (a : Access) (s : State) : (record a s).timeoutReg = s.timeoutReg := rfl
@[simp] theorem record_mem (a : Access) (s : State) : (record a s).mem = s.mem := rfl
@[simp] theorem record_radio (a : Access) (s : State) : (record a s).radio = s.radio := rfl
@[simp] theorem record_trace (a : Access) (s : State) : (record a s).trace = s.trace ++ [a] := rfl
@[simp] theorem record_script (a : Access) (s : State) : (record a s).script = s.script := rfl
@[simp] theorem record_hostData (a : Access) (s : State) : (record a s).hostData = s.hostData := rfl
@[simp] theorem record_snap (a : Access) (s : State) : (record a s).snap = s.snap := rfl
@[simp] theorem record_draws (a : Access) (s : State) : (record a s).draws = s.draws := rfl
@[simp] theorem record_freeUses (a : Access) (s : State) : (record a s).freeUses = s.freeUses := rfl

/-! `recordFault` -/
@[simp] theorem recordFault_cfg (c : PeFault) (s : State) : (recordFault c s).cfg = s.cfg := rfl
@[simp] theorem recordFault_eng (c : PeFault) (s : State) : (recordFault c s).eng = s.eng := rfl
@[simp] theorem recordFault_mode (c : PeFault) (s : State) : (recordFault c s).mode = s.mode := rfl
@[simp] theorem recordFault_avail (c : PeFault) (s : State) : (recordFault c s).avail = s.avail := rfl
@[simp] theorem recordFault_outPid (c : PeFault) (s : State) : (recordFault c s).outPid = s.outPid := rfl
@[simp] theorem recordFault_curKind (c : PeFault) (s : State) : (recordFault c s).curKind = s.curKind := rfl
@[simp] theorem recordFault_opKind (c : PeFault) (s : State) : (recordFault c s).opKind = s.opKind := rfl
@[simp] theorem recordFault_reqDst (c : PeFault) (s : State) : (recordFault c s).reqDst = s.reqDst := rfl
@[simp] theorem recordFault_reqPayload (c : PeFault) (s : State) : (recordFault c s).reqPayload = s.reqPayload := rfl
@[simp] theorem recordFault_retry (c : PeFault) (s : State) : (recordFault c s).retry = s.retry := rfl
@[simp] theorem recordFault_timeout (c : PeFault) (s : State) : (recordFault c s).timeout = s.timeout := rfl
@[simp] theorem recordFault_attempt (c : PeFault) (s : State) : (recordFault c s).attempt = s.attempt := rfl
@[simp] theorem recordFault_timerArmed (c : PeFault) (s : State) : (recordFault c s).timerArmed = s.timerArmed := rfl
@[simp] theorem recordFault_hopIdx (c : PeFault) (s : State) : (recordFault c s).hopIdx = s.hopIdx := rfl
@[simp] theorem recordFault_route (c : PeFault) (s : State) : (recordFault c s).route = s.route := rfl
@[simp] theorem recordFault_evq (c : PeFault) (s : State) : (recordFault c s).evq = s.evq := rfl
@[simp] theorem recordFault_log (c : PeFault) (s : State) : (recordFault c s).log = s.log := rfl
@[simp] theorem recordFault_fault (c : PeFault) (s : State) : (recordFault c s).fault = if s.fault = .clear then c else s.fault := rfl
@[simp] theorem recordFault_result (c : PeFault) (s : State) : (recordFault c s).result = s.result := rfl
@[simp] theorem recordFault_edge0 (c : PeFault) (s : State) : (recordFault c s).edge0 = s.edge0 := rfl
@[simp] theorem recordFault_edge1 (c : PeFault) (s : State) : (recordFault c s).edge1 = s.edge1 := rfl
@[simp] theorem recordFault_destReg (c : PeFault) (s : State) : (recordFault c s).destReg = s.destReg := rfl
@[simp] theorem recordFault_retryReg (c : PeFault) (s : State) : (recordFault c s).retryReg = s.retryReg := rfl
@[simp] theorem recordFault_plenReg (c : PeFault) (s : State) : (recordFault c s).plenReg = s.plenReg := rfl
@[simp] theorem recordFault_timeoutReg (c : PeFault) (s : State) : (recordFault c s).timeoutReg = s.timeoutReg := rfl
@[simp] theorem recordFault_mem (c : PeFault) (s : State) : (recordFault c s).mem = s.mem := rfl
@[simp] theorem recordFault_radio (c : PeFault) (s : State) : (recordFault c s).radio = s.radio := rfl
@[simp] theorem recordFault_trace (c : PeFault) (s : State) : (recordFault c s).trace = s.trace := rfl
@[simp] theorem recordFault_script (c : PeFault) (s : State) : (recordFault c s).script = s.script := rfl
@[simp] theorem recordFault_hostData (c : PeFault) (s : State) : (recordFault c s).hostData = s.hostData := rfl
@[simp] theorem recordFault_snap (c : PeFault) (s : State) : (recordFault c s).snap = s.snap := rfl
@[simp] theorem recordFault_draws (c : PeFault) (s : State) : (recordFault c s).draws = s.draws := rfl
@[simp] theorem recordFault_freeUses (c : PeFault) (s : State) : (recordFault c s).freeUses = s.freeUses := rfl

/-! `addLog` -/
@[simp] theorem addLog_cfg (c : LogCode) (n : Nat) (s : State) : (addLog c n s).cfg = s.cfg := rfl
@[simp] theorem addLog_eng (c : LogCode) (n : Nat) (s : State) : (addLog c n s).eng = s.eng := rfl
@[simp] theorem addLog_mode (c : LogCode) (n : Nat) (s : State) : (addLog c n s).mode = s.mode := rfl
@[simp] theorem addLog_avail (c : LogCode) (n : Nat) (s : State) : (addLog c n s).avail = s.avail := rfl
@[simp] theorem addLog_outPid (c : LogCode) (n : Nat) (s : State) : (addLog c n s).outPid = s.outPid := rfl
@[simp] theorem addLog_curKind (c : LogCode) (n : Nat) (s : State) : (addLog c n s).curKind = s.curKind := rfl
@[simp] theorem addLog_opKind (c : LogCode) (n : Nat) (s : State) : (addLog c n s).opKind = s.opKind := rfl
@[simp] theorem addLog_reqDst (c : LogCode) (n : Nat) (s : State) : (addLog c n s).reqDst = s.reqDst := rfl
@[simp] theorem addLog_reqPayload (c : LogCode) (n : Nat) (s : State) : (addLog c n s).reqPayload = s.reqPayload := rfl
@[simp] theorem addLog_retry (c : LogCode) (n : Nat) (s : State) : (addLog c n s).retry = s.retry := rfl
@[simp] theorem addLog_timeout (c : LogCode) (n : Nat) (s : State) : (addLog c n s).timeout = s.timeout := rfl
@[simp] theorem addLog_attempt (c : LogCode) (n : Nat) (s : State) : (addLog c n s).attempt = s.attempt := rfl
@[simp] theorem addLog_timerArmed (c : LogCode) (n : Nat) (s : State) : (addLog c n s).timerArmed = s.timerArmed := rfl
@[simp] theorem addLog_hopIdx (c : LogCode) (n : Nat) (s : State) : (addLog c n s).hopIdx = s.hopIdx := rfl
@[simp] theorem addLog_route (c : LogCode) (n : Nat) (s : State) : (addLog c n s).route = s.route := rfl
@[simp] theorem addLog_evq (c : LogCode) (n : Nat) (s : State) : (addLog c n s).evq = s.evq := rfl
@[simp] theorem addLog_log (c : LogCode) (n : Nat) (s : State) : (addLog c n s).log = s.log ++ [⟨c, n⟩] := rfl
@[simp] theorem addLog_fault (c : LogCode) (n : Nat) (s : State) : (addLog c n s).fault = s.fault := rfl
@[simp] theorem addLog_result (c : LogCode) (n : Nat) (s : State) : (addLog c n s).result = s.result := rfl
@[simp] theorem addLog_edge0 (c : LogCode) (n : Nat) (s : State) : (addLog c n s).edge0 = s.edge0 := rfl
@[simp] theorem addLog_edge1 (c : LogCode) (n : Nat) (s : State) : (addLog c n s).edge1 = s.edge1 := rfl
@[simp] theorem addLog_destReg (c : LogCode) (n : Nat) (s : State) : (addLog c n s).destReg = s.destReg := rfl
@[simp] theorem addLog_retryReg (c : LogCode) (n : Nat) (s : State) : (addLog c n s).retryReg = s.retryReg := rfl
@[simp] theorem addLog_plenReg (c : LogCode) (n : Nat) (s : State) : (addLog c n s).plenReg = s.plenReg := rfl
@[simp] theorem addLog_timeoutReg (c : LogCode) (n : Nat) (s : State) : (addLog c n s).timeoutReg = s.timeoutReg := rfl
@[simp] theorem addLog_mem (c : LogCode) (n : Nat) (s : State) : (addLog c n s).mem = s.mem := rfl
@[simp] theorem addLog_radio (c : LogCode) (n : Nat) (s : State) : (addLog c n s).radio = s.radio := rfl
@[simp] theorem addLog_trace (c : LogCode) (n : Nat) (s : State) : (addLog c n s).trace = s.trace := rfl
@[simp] theorem addLog_script (c : LogCode) (n : Nat) (s : State) : (addLog c n s).script = s.script := rfl
@[simp] theorem addLog_hostData (c : LogCode) (n : Nat) (s : State) : (addLog c n s).hostData = s.hostData := rfl
@[simp] theorem addLog_snap (c : LogCode) (n : Nat) (s : State) : (addLog c n s).snap = s.snap := rfl
@[simp] theorem addLog_draws (c : LogCode) (n : Nat) (s : State) : (addLog c n s).draws = s.draws := rfl
@[simp] theorem addLog_freeUses (c : LogCode) (n : Nat) (s : State) : (addLog c n s).freeUses = s.freeUses := rfl

/-! `emitEvent` -/
@[simp] theorem emitEvent_cfg (r : EvRecord) (s : State) : (emitEvent r s).cfg = s.cfg := rfl
@[simp] theorem emitEvent_eng (r : EvRecord) (s : State) : (emitEvent r s).eng = s.eng := rfl
@[simp] theorem emitEvent_mode (r : EvRecord) (s : State) : (emitEvent r s).mode = s.mode := rfl
@[simp] theorem emitEvent_avail (r : EvRecord) (s : State) : (emitEvent r s).avail = s.avail := rfl
@[simp] theorem emitEvent_outPid (r : EvRecord) (s : State) : (emitEvent r s).outPid = s.outPid := rfl
@[simp] theorem emitEvent_curKind (r : EvRecord) (s : State) : (emitEvent r s).curKind = s.curKind := rfl
@[simp] theorem emitEvent_opKind (r : EvRecord) (s : State) : (emitEvent r s).opKind = s.opKind := rfl
@[simp] theorem emitEvent_reqDst (r : EvRecord) (s : State) : (emitEvent r s).reqDst = s.reqDst := rfl
@[simp] theorem emitEvent_reqPayload (r : EvRecord) (s : State) : (emitEvent r s).reqPayload = s.reqPayload := rfl
@[simp] theorem emitEvent_retry (r : EvRecord) (s : State) : (emitEvent r s).retry = s.retry := rfl
@[simp] theorem emitEvent_timeout (r : EvRecord) (s : State) : (emitEvent r s).timeout = s.timeout := rfl
@[simp] theorem emitEvent_attempt (r : EvRecord) (s : State) : (emitEvent r s).attempt = s.attempt := rfl
@[simp] theorem emitEvent_timerArmed (r : EvRecord) (s : State) : (emitEvent r s).timerArmed = s.timerArmed := rfl
@[simp] theorem emitEvent_hopIdx (r : EvRecord) (s : State) : (emitEvent r s).hopIdx = s.hopIdx := rfl
@[simp] theorem emitEvent_route (r : EvRecord) (s : State) : (emitEvent r s).route = s.route := rfl
@[simp] theorem emitEvent_evq (r : EvRecord) (s : State) : (emitEvent r s).evq = s.evq ++ [r] := rfl
@[simp] theorem emitEvent_log (r : EvRecord) (s : State) : (emitEvent r s).log = s.log := rfl
@[simp] theorem emitEvent_fault (r : EvRecord) (s : State) : (emitEvent r s).fault = s.fault := rfl
@[simp] theorem emitEvent_result (r : EvRecord) (s : State) : (emitEvent r s).result = s.result := rfl
@[simp] theorem emitEvent_edge0 (r : EvRecord) (s : State) : (emitEvent r s).edge0 = s.edge0 := rfl
@[simp] theorem emitEvent_edge1 (r : EvRecord) (s : State) : (emitEvent r s).edge1 = s.edge1 := rfl
@[simp] theorem emitEvent_destReg (r : EvRecord) (s : State) : (emitEvent r s).destReg = s.destReg := rfl
@[simp] theorem emitEvent_retryReg (r : EvRecord) (s : State) : (emitEvent r s).retryReg = s.retryReg := rfl
@[simp] theorem emitEvent_plenReg (r : EvRecord) (s : State) : (emitEvent r s).plenReg = s.plenReg := rfl
@[simp] theorem emitEvent_timeoutReg (r : EvRecord) (s : State) : (emitEvent r s).timeoutReg = s.timeoutReg := rfl
@[simp] theorem emitEvent_mem (r : EvRecord) (s : State) : (emitEvent r s).mem = s.mem := rfl
@[simp] theorem emitEvent_radio (r : EvRecord) (s : State) : (emitEvent r s).radio = s.radio := rfl
@[simp] theorem emitEvent_trace (r : EvRecord) (s : State) : (emitEvent r s).trace = s.trace := rfl
@[simp] theorem emitEvent_script (r : EvRecord) (s : State) : (emitEvent r s).script = s.script := rfl
@[simp] theorem emitEvent_hostData (r : EvRecord) (s : State) : (emitEvent r s).hostData = s.hostData := rfl
@[simp] theorem emitEvent_snap (r : EvRecord) (s : State) : (emitEvent r s).snap = s.snap := rfl
@[simp] theorem emitEvent_draws (r : EvRecord) (s : State) : (emitEvent r s).draws = s.draws := rfl
@[simp] theorem emitEvent_freeUses (r : EvRecord) (s : State) : (emitEvent r s).freeUses = s.freeUses := rfl

/-! `takeDraw` -/
@[simp] theorem takeDraw_cfg (s : State) : (takeDraw s).cfg = s.cfg := rfl
@[simp] theorem takeDraw_eng (s : State) : (takeDraw s).eng = s.eng := rfl
@[simp] theorem takeDraw_mode (s : State) : (takeDraw s).mode = s.mode := rfl
@[simp] theorem takeDraw_avail (s : State) : (takeDraw s).avail = s.avail := rfl
@[simp] theorem takeDraw_outPid (s : State) : (takeDraw s).outPid = s.outPid := rfl
@[simp] theorem takeDraw_curKind (s : State) : (takeDraw s).curKind = s.curKind := rfl
@[simp] theorem takeDraw_opKind (s : State) : (takeDraw s).opKind = s.opKind := rfl
@[simp] theorem takeDraw_reqDst (s : State) : (takeDraw s).reqDst = s.reqDst := rfl
@[simp] theorem takeDraw_reqPayload (s : State) : (takeDraw s).reqPayload = s.reqPayload := rfl
@[simp] theorem takeDraw_retry (s : State) : (takeDraw s).retry = s.retry := rfl
@[simp] theorem takeDraw_timeout (s : State) : (takeDraw s).timeout = s.timeout := rfl
@[simp] theorem takeDraw_attempt (s : State) : (takeDraw s).attempt = s.attempt := rfl
@[simp] theorem takeDraw_timerArmed (s : State) : (takeDraw s).timerArmed = s.timerArmed := rfl
@[simp] theorem takeDraw_hopIdx (s : State) : (takeDraw s).hopIdx = s.hopIdx := rfl
@[simp] theorem takeDraw_route (s : State) : (takeDraw s).route = s.route := rfl
@[simp] theorem takeDraw_evq (s : State) : (takeDraw s).evq = s.evq := rfl
@[simp] theorem takeDraw_log (s : State) : (takeDraw s).log = s.log := rfl
@[simp] theorem takeDraw_fault (s : State) : (takeDraw s).fault = s.fault := rfl
@[simp] theorem takeDraw_result (s : State) : (takeDraw s).result = s.result := rfl
@[simp] theorem takeDraw_edge0 (s : State) : (takeDraw s).edge0 = s.edge0 := rfl
@[simp] theorem takeDraw_edge1 (s : State) : (takeDraw s).edge1 = s.edge1 := rfl
@[simp] theorem takeDraw_destReg (s : State) : (takeDraw s).destReg = s.destReg := rfl
@[simp] theorem takeDraw_retryReg (s : State) : (takeDraw s).retryReg = s.retryReg := rfl
@[simp] theorem takeDraw_plenReg (s : State) : (takeDraw s).plenReg = s.plenReg := rfl
@[simp] theorem takeDraw_timeoutReg (s : State) : (takeDraw s).timeoutReg = s.timeoutReg := rfl
@[simp] theorem takeDraw_mem (s : State) : (takeDraw s).mem = s.mem := rfl
@[simp] theorem takeDraw_radio (s : State) : (takeDraw s).radio = s.radio := rfl
@[simp] theorem takeDraw_trace (s : State) : (takeDraw s).trace = s.trace := rfl
@[simp] theorem takeDraw_script (s : State) : (takeDraw s).script = s.script := rfl
@[simp] theorem takeDraw_hostData (s : State) : (takeDraw s).hostData = s.hostData := rfl
@[simp] theorem takeDraw_snap (s : State) : (takeDraw s).snap = s.snap := rfl
@[simp] theorem takeDraw_draws (s : State) : (takeDraw s).draws = s.draws + 1 := rfl
@[simp] theorem takeDraw_freeUses (s : State) : (takeDraw s).freeUses = s.freeUses := rfl

/-! `radioRead` -/
@[simp] theorem radioRead_cfg (r : ReadReg) (s : State) : (radioRead r s).cfg = s.cfg := rfl
@[simp] theorem radioRead_eng (r : ReadReg) (s : State) : (radioRead r s).eng = s.eng := rfl
@[simp] theorem radioRead_mode (r : ReadReg) (s : State) : (radioRead r s).mode = s.mode := rfl
@[simp] theorem radioRead_avail (r : ReadReg) (s : State) : (radioRead r s).avail = s.avail := rfl
@[simp] theorem radioRead_outPid (r : ReadReg) (s : State) : (radioRead r s).outPid = s.outPid := rfl
@[simp] theorem radioRead_curKind (r : ReadReg) (s : State) : (radioRead r s).curKind = s.curKind := rfl
@[simp] theorem radioRead_opKind (r : ReadReg) (s : State) : (radioRead r s).opKind = s.opKind := rfl
@[simp] theorem radioRead_reqDst (r : ReadReg) (s : State) : (radioRead r s).reqDst = s.reqDst := rfl
@[simp] theorem radioRead_reqPayload (r : ReadReg) (s : State) : (radioRead r s).reqPayload = s.reqPayload := rfl
@[simp] theorem radioRead_retry (r : ReadReg) (s : State) : (radioRead r s).retry = s.retry := rfl
@[simp] theorem radioRead_timeout (r : ReadReg) (s : State) : (radioRead r s).timeout = s.timeout := rfl
@[simp] theorem radioRead_attempt (r : ReadReg) (s : State) : (radioRead r s).attempt = s.attempt := rfl
@[simp] theorem radioRead_timerArmed (r : ReadReg) (s : State) : (radioRead r s).timerArmed = s.timerArmed := rfl
@[simp] theorem radioRead_hopIdx (r : ReadReg) (s : State) : (radioRead r s).hopIdx = s.hopIdx := rfl
@[simp] theorem radioRead_route (r : ReadReg) (s : State) : (radioRead r s).route = s.route := rfl
@[simp] theorem radioRead_evq (r : ReadReg) (s : State) : (radioRead r s).evq = s.evq := rfl
@[simp] theorem radioRead_log (r : ReadReg) (s : State) : (radioRead r s).log = s.log := rfl
@[simp] theorem radioRead_fault (r : ReadReg) (s : State) : (radioRead r s).fault = s.fault := rfl
@[simp] theorem radioRead_result (r : ReadReg) (s : State) : (radioRead r s).result = s.result := rfl
@[simp] theorem radioRead_edge0 (r : ReadReg) (s : State) : (radioRead r s).edge0 = s.edge0 := rfl
@[simp] theorem radioRead_edge1 (r : ReadReg) (s : State) : (radioRead r s).edge1 = s.edge1 := rfl
@[simp] theorem radioRead_destReg (r : ReadReg) (s : State) : (radioRead r s).destReg = s.destReg := rfl
@[simp] theorem radioRead_retryReg (r : ReadReg) (s : State) : (radioRead r s).retryReg = s.retryReg := rfl
@[simp] theorem radioRead_plenReg (r : ReadReg) (s : State) : (radioRead r s).plenReg = s.plenReg := rfl
@[simp] theorem radioRead_timeoutReg (r : ReadReg) (s : State) : (radioRead r s).timeoutReg = s.timeoutReg := rfl
@[simp] theorem radioRead_mem (r : ReadReg) (s : State) : (radioRead r s).mem = s.mem := rfl
@[simp] theorem radioRead_radio (r : ReadReg) (s : State) : (radioRead r s).radio = s.radio := rfl
@[simp] theorem radioRead_trace (r : ReadReg) (s : State) : (radioRead r s).trace = s.trace ++ [.read r (radioValue r s)] := rfl
@[simp] theorem radioRead_script (r : ReadReg) (s : State) : (radioRead r s).script = s.script := rfl
@[simp] theorem radioRead_hostData (r : ReadReg) (s : State) : (radioRead r s).hostData = s.hostData := rfl
@[simp] theorem radioRead_snap (r : ReadReg) (s : State) : (radioRead r s).snap = s.snap := rfl
@[simp] theorem radioRead_draws (r : ReadReg) (s : State) : (radioRead r s).draws = s.draws := rfl
@[simp] theorem radioRead_freeUses (r : ReadReg) (s : State) : (radioRead r s).freeUses = s.freeUses := rfl

/-! `fifoRead` -/
@[simp] theorem fifoRead_cfg (s : State) : (fifoRead s).cfg = s.cfg := rfl
@[simp] theorem fifoRead_eng (s : State) : (fifoRead s).eng = s.eng := rfl
@[simp] theorem fifoRead_mode (s : State) : (fifoRead s).mode = s.mode := rfl
@[simp] theorem fifoRead_avail (s : State) : (fifoRead s).avail = s.avail := rfl
@[simp] theorem fifoRead_outPid (s : State) : (fifoRead s).outPid = s.outPid := rfl
@[simp] theorem fifoRead_curKind (s : State) : (fifoRead s).curKind = s.curKind := rfl
@[simp] theorem fifoRead_opKind (s : State) : (fifoRead s).opKind = s.opKind := rfl
@[simp] theorem fifoRead_reqDst (s : State) : (fifoRead s).reqDst = s.reqDst := rfl
@[simp] theorem fifoRead_reqPayload (s : State) : (fifoRead s).reqPayload = s.reqPayload := rfl
@[simp] theorem fifoRead_retry (s : State) : (fifoRead s).retry = s.retry := rfl
@[simp] theorem fifoRead_timeout (s : State) : (fifoRead s).timeout = s.timeout := rfl
@[simp] theorem fifoRead_attempt (s : State) : (fifoRead s).attempt = s.attempt := rfl
@[simp] theorem fifoRead_timerArmed (s : State) : (fifoRead s).timerArmed = s.timerArmed := rfl
@[simp] theorem fifoRead_hopIdx (s : State) : (fifoRead s).hopIdx = s.hopIdx := rfl
@[simp] theorem fifoRead_route (s : State) : (fifoRead s).route = s.route := rfl
@[simp] theorem fifoRead_evq (s : State) : (fifoRead s).evq = s.evq := rfl
@[simp] theorem fifoRead_log (s : State) : (fifoRead s).log = s.log := rfl
@[simp] theorem fifoRead_fault (s : State) : (fifoRead s).fault = s.fault := rfl
@[simp] theorem fifoRead_result (s : State) : (fifoRead s).result = s.result := rfl
@[simp] theorem fifoRead_edge0 (s : State) : (fifoRead s).edge0 = s.edge0 := rfl
@[simp] theorem fifoRead_edge1 (s : State) : (fifoRead s).edge1 = s.edge1 := rfl
@[simp] theorem fifoRead_destReg (s : State) : (fifoRead s).destReg = s.destReg := rfl
@[simp] theorem fifoRead_retryReg (s : State) : (fifoRead s).retryReg = s.retryReg := rfl
@[simp] theorem fifoRead_plenReg (s : State) : (fifoRead s).plenReg = s.plenReg := rfl
@[simp] theorem fifoRead_timeoutReg (s : State) : (fifoRead s).timeoutReg = s.timeoutReg := rfl
@[simp] theorem fifoRead_mem (s : State) : (fifoRead s).mem = s.mem := rfl
@[simp] theorem fifoRead_radio (s : State) : (fifoRead s).radio = s.radio := rfl
@[simp] theorem fifoRead_trace (s : State) : (fifoRead s).trace = s.trace ++ [.fifoRead s.radio.rxFrame] := rfl
@[simp] theorem fifoRead_script (s : State) : (fifoRead s).script = s.script := rfl
@[simp] theorem fifoRead_hostData (s : State) : (fifoRead s).hostData = s.hostData := rfl
@[simp] theorem fifoRead_snap (s : State) : (fifoRead s).snap = s.snap := rfl
@[simp] theorem fifoRead_draws (s : State) : (fifoRead s).draws = s.draws := rfl
@[simp] theorem fifoRead_freeUses (s : State) : (fifoRead s).freeUses = s.freeUses := rfl

/-! `fifoWrite` -/
@[simp] theorem fifoWrite_cfg (frame : List Byte) (s : State) : (fifoWrite frame s).cfg = s.cfg := rfl
@[simp] theorem fifoWrite_eng (frame : List Byte) (s : State) : (fifoWrite frame s).eng = s.eng := rfl
@[simp] theorem fifoWrite_mode (frame : List Byte) (s : State) : (fifoWrite frame s).mode = s.mode := rfl
@[simp] theorem fifoWrite_avail (frame : List Byte) (s : State) : (fifoWrite frame s).avail = s.avail := rfl
@[simp] theorem fifoWrite_outPid (frame : List Byte) (s : State) : (fifoWrite frame s).outPid = s.outPid := rfl
@[simp] theorem fifoWrite_curKind (frame : List Byte) (s : State) : (fifoWrite frame s).curKind = s.curKind := rfl
@[simp] theorem fifoWrite_opKind (frame : List Byte) (s : State) : (fifoWrite frame s).opKind = s.opKind := rfl
@[simp] theorem fifoWrite_reqDst (frame : List Byte) (s : State) : (fifoWrite frame s).reqDst = s.reqDst := rfl
@[simp] theorem fifoWrite_reqPayload (frame : List Byte) (s : State) : (fifoWrite frame s).reqPayload = s.reqPayload := rfl
@[simp] theorem fifoWrite_retry (frame : List Byte) (s : State) : (fifoWrite frame s).retry = s.retry := rfl
@[simp] theorem fifoWrite_timeout (frame : List Byte) (s : State) : (fifoWrite frame s).timeout = s.timeout := rfl
@[simp] theorem fifoWrite_attempt (frame : List Byte) (s : State) : (fifoWrite frame s).attempt = s.attempt := rfl
@[simp] theorem fifoWrite_timerArmed (frame : List Byte) (s : State) : (fifoWrite frame s).timerArmed = s.timerArmed := rfl
@[simp] theorem fifoWrite_hopIdx (frame : List Byte) (s : State) : (fifoWrite frame s).hopIdx = s.hopIdx := rfl
@[simp] theorem fifoWrite_route (frame : List Byte) (s : State) : (fifoWrite frame s).route = s.route := rfl
@[simp] theorem fifoWrite_evq (frame : List Byte) (s : State) : (fifoWrite frame s).evq = s.evq := rfl
@[simp] theorem fifoWrite_log (frame : List Byte) (s : State) : (fifoWrite frame s).log = s.log := rfl
@[simp] theorem fifoWrite_fault (frame : List Byte) (s : State) : (fifoWrite frame s).fault = s.fault := rfl
@[simp] theorem fifoWrite_result (frame : List Byte) (s : State) : (fifoWrite frame s).result = s.result := rfl
@[simp] theorem fifoWrite_edge0 (frame : List Byte) (s : State) : (fifoWrite frame s).edge0 = s.edge0 := rfl
@[simp] theorem fifoWrite_edge1 (frame : List Byte) (s : State) : (fifoWrite frame s).edge1 = s.edge1 := rfl
@[simp] theorem fifoWrite_destReg (frame : List Byte) (s : State) : (fifoWrite frame s).destReg = s.destReg := rfl
@[simp] theorem fifoWrite_retryReg (frame : List Byte) (s : State) : (fifoWrite frame s).retryReg = s.retryReg := rfl
@[simp] theorem fifoWrite_plenReg (frame : List Byte) (s : State) : (fifoWrite frame s).plenReg = s.plenReg := rfl
@[simp] theorem fifoWrite_timeoutReg (frame : List Byte) (s : State) : (fifoWrite frame s).timeoutReg = s.timeoutReg := rfl
@[simp] theorem fifoWrite_mem (frame : List Byte) (s : State) : (fifoWrite frame s).mem = s.mem := rfl
@[simp] theorem fifoWrite_radio (frame : List Byte) (s : State) : (fifoWrite frame s).radio = { s.radio with txFrame := frame } := rfl
@[simp] theorem fifoWrite_trace (frame : List Byte) (s : State) : (fifoWrite frame s).trace = s.trace ++ [.fifoWrite frame] := rfl
@[simp] theorem fifoWrite_script (frame : List Byte) (s : State) : (fifoWrite frame s).script = s.script := rfl
@[simp] theorem fifoWrite_hostData (frame : List Byte) (s : State) : (fifoWrite frame s).hostData = s.hostData := rfl
@[simp] theorem fifoWrite_snap (frame : List Byte) (s : State) : (fifoWrite frame s).snap = s.snap := rfl
@[simp] theorem fifoWrite_draws (frame : List Byte) (s : State) : (fifoWrite frame s).draws = s.draws := rfl
@[simp] theorem fifoWrite_freeUses (frame : List Byte) (s : State) : (fifoWrite frame s).freeUses = s.freeUses := rfl

/-! `radioWrite` -/
@[simp] theorem radioWrite_cfg (r : WriteReg) (v : Byte) (s : State) : (radioWrite r v s).cfg = s.cfg := by cases r <;> rfl
@[simp] theorem radioWrite_eng (r : WriteReg) (v : Byte) (s : State) : (radioWrite r v s).eng = s.eng := by cases r <;> rfl
@[simp] theorem radioWrite_mode (r : WriteReg) (v : Byte) (s : State) : (radioWrite r v s).mode = s.mode := by cases r <;> rfl
@[simp] theorem radioWrite_avail (r : WriteReg) (v : Byte) (s : State) : (radioWrite r v s).avail = s.avail := by cases r <;> rfl
@[simp] theorem radioWrite_outPid (r : WriteReg) (v : Byte) (s : State) : (radioWrite r v s).outPid = s.outPid := by cases r <;> rfl
@[simp] theorem radioWrite_curKind (r : WriteReg) (v : Byte) (s : State) : (radioWrite r v s).curKind = s.curKind := by cases r <;> rfl
@[simp] theorem radioWrite_opKind (r : WriteReg) (v : Byte) (s : State) : (radioWrite r v s).opKind = s.opKind := by cases r <;> rfl
@[simp] theorem radioWrite_reqDst (r : WriteReg) (v : Byte) (s : State) : (radioWrite r v s).reqDst = s.reqDst := by cases r <;> rfl
@[simp] theorem radioWrite_reqPayload (r : WriteReg) (v : Byte) (s : State) : (radioWrite r v s).reqPayload = s.reqPayload := by cases r <;> rfl
@[simp] theorem radioWrite_retry (r : WriteReg) (v : Byte) (s : State) : (radioWrite r v s).retry = s.retry := by cases r <;> rfl
@[simp] theorem radioWrite_timeout (r : WriteReg) (v : Byte) (s : State) : (radioWrite r v s).timeout = s.timeout := by cases r <;> rfl
@[simp] theorem radioWrite_attempt (r : WriteReg) (v : Byte) (s : State) : (radioWrite r v s).attempt = s.attempt := by cases r <;> rfl
@[simp] theorem radioWrite_timerArmed (r : WriteReg) (v : Byte) (s : State) : (radioWrite r v s).timerArmed = s.timerArmed := by cases r <;> rfl
@[simp] theorem radioWrite_hopIdx (r : WriteReg) (v : Byte) (s : State) : (radioWrite r v s).hopIdx = s.hopIdx := by cases r <;> rfl
@[simp] theorem radioWrite_route (r : WriteReg) (v : Byte) (s : State) : (radioWrite r v s).route = s.route := by cases r <;> rfl
@[simp] theorem radioWrite_evq (r : WriteReg) (v : Byte) (s : State) : (radioWrite r v s).evq = s.evq := by cases r <;> rfl
@[simp] theorem radioWrite_log (r : WriteReg) (v : Byte) (s : State) : (radioWrite r v s).log = s.log := by cases r <;> rfl
@[simp] theorem radioWrite_fault (r : WriteReg) (v : Byte) (s : State) : (radioWrite r v s).fault = s.fault := by cases r <;> rfl
@[simp] theorem radioWrite_result (r : WriteReg) (v : Byte) (s : State) : (radioWrite r v s).result = s.result := by cases r <;> rfl
@[simp] theorem radioWrite_destReg (r : WriteReg) (v : Byte) (s : State) : (radioWrite r v s).destReg = s.destReg := by cases r <;> rfl
@[simp] theorem radioWrite_retryReg (r : WriteReg) (v : Byte) (s : State) : (radioWrite r v s).retryReg = s.retryReg := by cases r <;> rfl
@[simp] theorem radioWrite_plenReg (r : WriteReg) (v : Byte) (s : State) : (radioWrite r v s).plenReg = s.plenReg := by cases r <;> rfl
@[simp] theorem radioWrite_timeoutReg (r : WriteReg) (v : Byte) (s : State) : (radioWrite r v s).timeoutReg = s.timeoutReg := by cases r <;> rfl
@[simp] theorem radioWrite_mem (r : WriteReg) (v : Byte) (s : State) : (radioWrite r v s).mem = s.mem := by cases r <;> rfl
@[simp] theorem radioWrite_trace (r : WriteReg) (v : Byte) (s : State) : (radioWrite r v s).trace = s.trace ++ [.write r v] := by cases r <;> rfl
@[simp] theorem radioWrite_script (r : WriteReg) (v : Byte) (s : State) : (radioWrite r v s).script = s.script := by cases r <;> rfl
@[simp] theorem radioWrite_hostData (r : WriteReg) (v : Byte) (s : State) : (radioWrite r v s).hostData = s.hostData := by cases r <;> rfl
@[simp] theorem radioWrite_snap (r : WriteReg) (v : Byte) (s : State) : (radioWrite r v s).snap = s.snap := by cases r <;> rfl
@[simp] theorem radioWrite_draws (r : WriteReg) (v : Byte) (s : State) : (radioWrite r v s).draws = s.draws := by cases r <;> rfl
@[simp] theorem radioWrite_freeUses (r : WriteReg) (v : Byte) (s : State) : (radioWrite r v s).freeUses = s.freeUses := by cases r <;> rfl

/-! `routeLines` -/
@[simp] theorem routeLines_cfg (r : LineRoute) (s : State) : (routeLines r s).cfg = s.cfg := rfl
@[simp] theorem routeLines_eng (r : LineRoute) (s : State) : (routeLines r s).eng = s.eng := rfl
@[simp] theorem routeLines_mode (r : LineRoute) (s : State) : (routeLines r s).mode = s.mode := rfl
@[simp] theorem routeLines_avail (r : LineRoute) (s : State) : (routeLines r s).avail = s.avail := rfl
@[simp] theorem routeLines_outPid (r : LineRoute) (s : State) : (routeLines r s).outPid = s.outPid := rfl
@[simp] theorem routeLines_curKind (r : LineRoute) (s : State) : (routeLines r s).curKind = s.curKind := rfl
@[simp] theorem routeLines_opKind (r : LineRoute) (s : State) : (routeLines r s).opKind = s.opKind := rfl
@[simp] theorem routeLines_reqDst (r : LineRoute) (s : State) : (routeLines r s).reqDst = s.reqDst := rfl
@[simp] theorem routeLines_reqPayload (r : LineRoute) (s : State) : (routeLines r s).reqPayload = s.reqPayload := rfl
@[simp] theorem routeLines_retry (r : LineRoute) (s : State) : (routeLines r s).retry = s.retry := rfl
@[simp] theorem routeLines_timeout (r : LineRoute) (s : State) : (routeLines r s).timeout = s.timeout := rfl
@[simp] theorem routeLines_attempt (r : LineRoute) (s : State) : (routeLines r s).attempt = s.attempt := rfl
@[simp] theorem routeLines_timerArmed (r : LineRoute) (s : State) : (routeLines r s).timerArmed = s.timerArmed := rfl
@[simp] theorem routeLines_hopIdx (r : LineRoute) (s : State) : (routeLines r s).hopIdx = s.hopIdx := rfl
@[simp] theorem routeLines_route (r : LineRoute) (s : State) : (routeLines r s).route = r.pair := rfl
@[simp] theorem routeLines_evq (r : LineRoute) (s : State) : (routeLines r s).evq = s.evq := rfl
@[simp] theorem routeLines_log (r : LineRoute) (s : State) : (routeLines r s).log = s.log := rfl
@[simp] theorem routeLines_fault (r : LineRoute) (s : State) : (routeLines r s).fault = s.fault := rfl
@[simp] theorem routeLines_result (r : LineRoute) (s : State) : (routeLines r s).result = s.result := rfl
@[simp] theorem routeLines_edge0 (r : LineRoute) (s : State) : (routeLines r s).edge0 = (s.edge0 || risesOnRemap .line0 r.dioByte s) := rfl
@[simp] theorem routeLines_edge1 (r : LineRoute) (s : State) : (routeLines r s).edge1 = (s.edge1 || risesOnRemap .line1 r.dioByte s) := rfl
@[simp] theorem routeLines_destReg (r : LineRoute) (s : State) : (routeLines r s).destReg = s.destReg := rfl
@[simp] theorem routeLines_retryReg (r : LineRoute) (s : State) : (routeLines r s).retryReg = s.retryReg := rfl
@[simp] theorem routeLines_plenReg (r : LineRoute) (s : State) : (routeLines r s).plenReg = s.plenReg := rfl
@[simp] theorem routeLines_timeoutReg (r : LineRoute) (s : State) : (routeLines r s).timeoutReg = s.timeoutReg := rfl
@[simp] theorem routeLines_mem (r : LineRoute) (s : State) : (routeLines r s).mem = s.mem := rfl
@[simp] theorem routeLines_radio (r : LineRoute) (s : State) : (routeLines r s).radio = { s.radio with dio := r.dioByte } := rfl
@[simp] theorem routeLines_trace (r : LineRoute) (s : State) : (routeLines r s).trace = s.trace ++ [.write .dioMapping1 r.dioByte] := rfl
@[simp] theorem routeLines_script (r : LineRoute) (s : State) : (routeLines r s).script = s.script := rfl
@[simp] theorem routeLines_hostData (r : LineRoute) (s : State) : (routeLines r s).hostData = s.hostData := rfl
@[simp] theorem routeLines_snap (r : LineRoute) (s : State) : (routeLines r s).snap = s.snap := rfl
@[simp] theorem routeLines_draws (r : LineRoute) (s : State) : (routeLines r s).draws = s.draws := rfl
@[simp] theorem routeLines_freeUses (r : LineRoute) (s : State) : (routeLines r s).freeUses = s.freeUses := rfl

/-! `commandMode` -/
@[simp] theorem commandMode_cfg (m : RadioMode) (s : State) : (commandMode m s).cfg = s.cfg := rfl
@[simp] theorem commandMode_eng (m : RadioMode) (s : State) : (commandMode m s).eng = s.eng := rfl
@[simp] theorem commandMode_mode (m : RadioMode) (s : State) : (commandMode m s).mode = some m := rfl
@[simp] theorem commandMode_avail (m : RadioMode) (s : State) : (commandMode m s).avail = s.avail := rfl
@[simp] theorem commandMode_outPid (m : RadioMode) (s : State) : (commandMode m s).outPid = s.outPid := rfl
@[simp] theorem commandMode_curKind (m : RadioMode) (s : State) : (commandMode m s).curKind = s.curKind := rfl
@[simp] theorem commandMode_opKind (m : RadioMode) (s : State) : (commandMode m s).opKind = s.opKind := rfl
@[simp] theorem commandMode_reqDst (m : RadioMode) (s : State) : (commandMode m s).reqDst = s.reqDst := rfl
@[simp] theorem commandMode_reqPayload (m : RadioMode) (s : State) : (commandMode m s).reqPayload = s.reqPayload := rfl
@[simp] theorem commandMode_retry (m : RadioMode) (s : State) : (commandMode m s).retry = s.retry := rfl
@[simp] theorem commandMode_timeout (m : RadioMode) (s : State) : (commandMode m s).timeout = s.timeout := rfl
@[simp] theorem commandMode_attempt (m : RadioMode) (s : State) : (commandMode m s).attempt = s.attempt := rfl
@[simp] theorem commandMode_timerArmed (m : RadioMode) (s : State) : (commandMode m s).timerArmed = s.timerArmed := rfl
@[simp] theorem commandMode_hopIdx (m : RadioMode) (s : State) : (commandMode m s).hopIdx = s.hopIdx := rfl
@[simp] theorem commandMode_route (m : RadioMode) (s : State) : (commandMode m s).route = s.route := rfl
@[simp] theorem commandMode_evq (m : RadioMode) (s : State) : (commandMode m s).evq = s.evq := rfl
@[simp] theorem commandMode_log (m : RadioMode) (s : State) : (commandMode m s).log = s.log := rfl
@[simp] theorem commandMode_fault (m : RadioMode) (s : State) : (commandMode m s).fault = s.fault := rfl
@[simp] theorem commandMode_result (m : RadioMode) (s : State) : (commandMode m s).result = s.result := rfl
@[simp] theorem commandMode_edge0 (m : RadioMode) (s : State) : (commandMode m s).edge0 = s.edge0 := rfl
@[simp] theorem commandMode_edge1 (m : RadioMode) (s : State) : (commandMode m s).edge1 = s.edge1 := rfl
@[simp] theorem commandMode_destReg (m : RadioMode) (s : State) : (commandMode m s).destReg = s.destReg := rfl
@[simp] theorem commandMode_retryReg (m : RadioMode) (s : State) : (commandMode m s).retryReg = s.retryReg := rfl
@[simp] theorem commandMode_plenReg (m : RadioMode) (s : State) : (commandMode m s).plenReg = s.plenReg := rfl
@[simp] theorem commandMode_timeoutReg (m : RadioMode) (s : State) : (commandMode m s).timeoutReg = s.timeoutReg := rfl
@[simp] theorem commandMode_mem (m : RadioMode) (s : State) : (commandMode m s).mem = s.mem := rfl
@[simp] theorem commandMode_trace (m : RadioMode) (s : State) : (commandMode m s).trace = s.trace ++ [.write .opMode (opmodeByte s.cfg m)] := rfl
@[simp] theorem commandMode_script (m : RadioMode) (s : State) : (commandMode m s).script = s.script := rfl
@[simp] theorem commandMode_hostData (m : RadioMode) (s : State) : (commandMode m s).hostData = s.hostData := rfl
@[simp] theorem commandMode_snap (m : RadioMode) (s : State) : (commandMode m s).snap = s.snap := rfl
@[simp] theorem commandMode_draws (m : RadioMode) (s : State) : (commandMode m s).draws = s.draws := rfl
@[simp] theorem commandMode_freeUses (m : RadioMode) (s : State) : (commandMode m s).freeUses = s.freeUses := rfl

/-! `writeCarrier` -/
@[simp] theorem writeCarrier_cfg (frf : Carrier) (s : State) : (writeCarrier frf s).cfg = s.cfg := by simp [writeCarrier]
@[simp] theorem writeCarrier_eng (frf : Carrier) (s : State) : (writeCarrier frf s).eng = s.eng := by simp [writeCarrier]
@[simp] theorem writeCarrier_mode (frf : Carrier) (s : State) : (writeCarrier frf s).mode = s.mode := by simp [writeCarrier]
@[simp] theorem writeCarrier_avail (frf : Carrier) (s : State) : (writeCarrier frf s).avail = s.avail := by simp [writeCarrier]
@[simp] theorem writeCarrier_outPid (frf : Carrier) (s : State) : (writeCarrier frf s).outPid = s.outPid := by simp [writeCarrier]
@[simp] theorem writeCarrier_curKind (frf : Carrier) (s : State) : (writeCarrier frf s).curKind = s.curKind := by simp [writeCarrier]
@[simp] theorem writeCarrier_opKind (frf : Carrier) (s : State) : (writeCarrier frf s).opKind = s.opKind := by simp [writeCarrier]
@[simp] theorem writeCarrier_reqDst (frf : Carrier) (s : State) : (writeCarrier frf s).reqDst = s.reqDst := by simp [writeCarrier]
@[simp] theorem writeCarrier_reqPayload (frf : Carrier) (s : State) : (writeCarrier frf s).reqPayload = s.reqPayload := by simp [writeCarrier]
@[simp] theorem writeCarrier_retry (frf : Carrier) (s : State) : (writeCarrier frf s).retry = s.retry := by simp [writeCarrier]
@[simp] theorem writeCarrier_timeout (frf : Carrier) (s : State) : (writeCarrier frf s).timeout = s.timeout := by simp [writeCarrier]
@[simp] theorem writeCarrier_attempt (frf : Carrier) (s : State) : (writeCarrier frf s).attempt = s.attempt := by simp [writeCarrier]
@[simp] theorem writeCarrier_timerArmed (frf : Carrier) (s : State) : (writeCarrier frf s).timerArmed = s.timerArmed := by simp [writeCarrier]
@[simp] theorem writeCarrier_hopIdx (frf : Carrier) (s : State) : (writeCarrier frf s).hopIdx = s.hopIdx := by simp [writeCarrier]
@[simp] theorem writeCarrier_route (frf : Carrier) (s : State) : (writeCarrier frf s).route = s.route := by simp [writeCarrier]
@[simp] theorem writeCarrier_evq (frf : Carrier) (s : State) : (writeCarrier frf s).evq = s.evq := by simp [writeCarrier]
@[simp] theorem writeCarrier_log (frf : Carrier) (s : State) : (writeCarrier frf s).log = s.log := by simp [writeCarrier]
@[simp] theorem writeCarrier_fault (frf : Carrier) (s : State) : (writeCarrier frf s).fault = s.fault := by simp [writeCarrier]
@[simp] theorem writeCarrier_result (frf : Carrier) (s : State) : (writeCarrier frf s).result = s.result := by simp [writeCarrier]
@[simp] theorem writeCarrier_destReg (frf : Carrier) (s : State) : (writeCarrier frf s).destReg = s.destReg := by simp [writeCarrier]
@[simp] theorem writeCarrier_retryReg (frf : Carrier) (s : State) : (writeCarrier frf s).retryReg = s.retryReg := by simp [writeCarrier]
@[simp] theorem writeCarrier_plenReg (frf : Carrier) (s : State) : (writeCarrier frf s).plenReg = s.plenReg := by simp [writeCarrier]
@[simp] theorem writeCarrier_timeoutReg (frf : Carrier) (s : State) : (writeCarrier frf s).timeoutReg = s.timeoutReg := by simp [writeCarrier]
@[simp] theorem writeCarrier_mem (frf : Carrier) (s : State) : (writeCarrier frf s).mem = s.mem := by simp [writeCarrier]
@[simp] theorem writeCarrier_trace (frf : Carrier) (s : State) : (writeCarrier frf s).trace = s.trace ++ [.write .frfMsb (frf.extractLsb' 16 8)] ++ [.write .frfMid (frf.extractLsb' 8 8)] ++ [.write .frfLsb (frf.extractLsb' 0 8)] := by simp [writeCarrier]
@[simp] theorem writeCarrier_script (frf : Carrier) (s : State) : (writeCarrier frf s).script = s.script := by simp [writeCarrier]
@[simp] theorem writeCarrier_hostData (frf : Carrier) (s : State) : (writeCarrier frf s).hostData = s.hostData := by simp [writeCarrier]
@[simp] theorem writeCarrier_snap (frf : Carrier) (s : State) : (writeCarrier frf s).snap = s.snap := by simp [writeCarrier]
@[simp] theorem writeCarrier_draws (frf : Carrier) (s : State) : (writeCarrier frf s).draws = s.draws := by simp [writeCarrier]
@[simp] theorem writeCarrier_freeUses (frf : Carrier) (s : State) : (writeCarrier frf s).freeUses = s.freeUses := by simp [writeCarrier]

/-! `readHopIndex` -/
@[simp] theorem readHopIndex_cfg (s : State) : (readHopIndex s).cfg = s.cfg := rfl
@[simp] theorem readHopIndex_eng (s : State) : (readHopIndex s).eng = s.eng := rfl
@[simp] theorem readHopIndex_mode (s : State) : (readHopIndex s).mode = s.mode := rfl
@[simp] theorem readHopIndex_avail (s : State) : (readHopIndex s).avail = s.avail := rfl
@[simp] theorem readHopIndex_outPid (s : State) : (readHopIndex s).outPid = s.outPid := rfl
@[simp] theorem readHopIndex_curKind (s : State) : (readHopIndex s).curKind = s.curKind := rfl
@[simp] theorem readHopIndex_opKind (s : State) : (readHopIndex s).opKind = s.opKind := rfl
@[simp] theorem readHopIndex_reqDst (s : State) : (readHopIndex s).reqDst = s.reqDst := rfl
@[simp] theorem readHopIndex_reqPayload (s : State) : (readHopIndex s).reqPayload = s.reqPayload := rfl
@[simp] theorem readHopIndex_retry (s : State) : (readHopIndex s).retry = s.retry := rfl
@[simp] theorem readHopIndex_timeout (s : State) : (readHopIndex s).timeout = s.timeout := rfl
@[simp] theorem readHopIndex_attempt (s : State) : (readHopIndex s).attempt = s.attempt := rfl
@[simp] theorem readHopIndex_timerArmed (s : State) : (readHopIndex s).timerArmed = s.timerArmed := rfl
@[simp] theorem readHopIndex_hopIdx (s : State) : (readHopIndex s).hopIdx = hopIndex s.radio.hopCh := rfl
@[simp] theorem readHopIndex_route (s : State) : (readHopIndex s).route = s.route := rfl
@[simp] theorem readHopIndex_evq (s : State) : (readHopIndex s).evq = s.evq := rfl
@[simp] theorem readHopIndex_log (s : State) : (readHopIndex s).log = s.log := rfl
@[simp] theorem readHopIndex_fault (s : State) : (readHopIndex s).fault = s.fault := rfl
@[simp] theorem readHopIndex_result (s : State) : (readHopIndex s).result = s.result := rfl
@[simp] theorem readHopIndex_edge0 (s : State) : (readHopIndex s).edge0 = s.edge0 := rfl
@[simp] theorem readHopIndex_edge1 (s : State) : (readHopIndex s).edge1 = s.edge1 := rfl
@[simp] theorem readHopIndex_destReg (s : State) : (readHopIndex s).destReg = s.destReg := rfl
@[simp] theorem readHopIndex_retryReg (s : State) : (readHopIndex s).retryReg = s.retryReg := rfl
@[simp] theorem readHopIndex_plenReg (s : State) : (readHopIndex s).plenReg = s.plenReg := rfl
@[simp] theorem readHopIndex_timeoutReg (s : State) : (readHopIndex s).timeoutReg = s.timeoutReg := rfl
@[simp] theorem readHopIndex_mem (s : State) : (readHopIndex s).mem = s.mem := rfl
@[simp] theorem readHopIndex_radio (s : State) : (readHopIndex s).radio = s.radio := rfl
@[simp] theorem readHopIndex_trace (s : State) : (readHopIndex s).trace = s.trace ++ [.read .hopChannel s.radio.hopCh] := rfl
@[simp] theorem readHopIndex_script (s : State) : (readHopIndex s).script = s.script := rfl
@[simp] theorem readHopIndex_hostData (s : State) : (readHopIndex s).hostData = s.hostData := rfl
@[simp] theorem readHopIndex_snap (s : State) : (readHopIndex s).snap = s.snap := rfl
@[simp] theorem readHopIndex_draws (s : State) : (readHopIndex s).draws = s.draws := rfl
@[simp] theorem readHopIndex_freeUses (s : State) : (readHopIndex s).freeUses = s.freeUses := rfl

/-! `radioEvent` -/
@[simp] theorem radioEvent_cfg (r : RadioState) (s : State) : (radioEvent r s).cfg = s.cfg := rfl
@[simp] theorem radioEvent_eng (r : RadioState) (s : State) : (radioEvent r s).eng = s.eng := rfl
@[simp] theorem radioEvent_mode (r : RadioState) (s : State) : (radioEvent r s).mode = s.mode := rfl
@[simp] theorem radioEvent_avail (r : RadioState) (s : State) : (radioEvent r s).avail = s.avail := rfl
@[simp] theorem radioEvent_outPid (r : RadioState) (s : State) : (radioEvent r s).outPid = s.outPid := rfl
@[simp] theorem radioEvent_curKind (r : RadioState) (s : State) : (radioEvent r s).curKind = s.curKind := rfl
@[simp] theorem radioEvent_opKind (r : RadioState) (s : State) : (radioEvent r s).opKind = s.opKind := rfl
@[simp] theorem radioEvent_reqDst (r : RadioState) (s : State) : (radioEvent r s).reqDst = s.reqDst := rfl
@[simp] theorem radioEvent_reqPayload (r : RadioState) (s : State) : (radioEvent r s).reqPayload = s.reqPayload := rfl
@[simp] theorem radioEvent_retry (r : RadioState) (s : State) : (radioEvent r s).retry = s.retry := rfl
@[simp] theorem radioEvent_timeout (r : RadioState) (s : State) : (radioEvent r s).timeout = s.timeout := rfl
@[simp] theorem radioEvent_attempt (r : RadioState) (s : State) : (radioEvent r s).attempt = s.attempt := rfl
@[simp] theorem radioEvent_timerArmed (r : RadioState) (s : State) : (radioEvent r s).timerArmed = s.timerArmed := rfl
@[simp] theorem radioEvent_hopIdx (r : RadioState) (s : State) : (radioEvent r s).hopIdx = s.hopIdx := rfl
@[simp] theorem radioEvent_route (r : RadioState) (s : State) : (radioEvent r s).route = s.route := rfl
@[simp] theorem radioEvent_evq (r : RadioState) (s : State) : (radioEvent r s).evq = s.evq := rfl
@[simp] theorem radioEvent_log (r : RadioState) (s : State) : (radioEvent r s).log = s.log := rfl
@[simp] theorem radioEvent_fault (r : RadioState) (s : State) : (radioEvent r s).fault = s.fault := rfl
@[simp] theorem radioEvent_result (r : RadioState) (s : State) : (radioEvent r s).result = s.result := rfl
@[simp] theorem radioEvent_edge0 (r : RadioState) (s : State) : (radioEvent r s).edge0 = (s.edge0 || risesOnEvent .line0 r (Config.freeEdge s.freeUses) s) := rfl
@[simp] theorem radioEvent_edge1 (r : RadioState) (s : State) : (radioEvent r s).edge1 = (s.edge1 || risesOnEvent .line1 r (Config.freeEdge (s.freeUses + 1)) s) := rfl
@[simp] theorem radioEvent_destReg (r : RadioState) (s : State) : (radioEvent r s).destReg = s.destReg := rfl
@[simp] theorem radioEvent_retryReg (r : RadioState) (s : State) : (radioEvent r s).retryReg = s.retryReg := rfl
@[simp] theorem radioEvent_plenReg (r : RadioState) (s : State) : (radioEvent r s).plenReg = s.plenReg := rfl
@[simp] theorem radioEvent_timeoutReg (r : RadioState) (s : State) : (radioEvent r s).timeoutReg = s.timeoutReg := rfl
@[simp] theorem radioEvent_mem (r : RadioState) (s : State) : (radioEvent r s).mem = s.mem := rfl
@[simp] theorem radioEvent_radio (r : RadioState) (s : State) : (radioEvent r s).radio = r := rfl
@[simp] theorem radioEvent_trace (r : RadioState) (s : State) : (radioEvent r s).trace = s.trace := rfl
@[simp] theorem radioEvent_script (r : RadioState) (s : State) : (radioEvent r s).script = s.script := rfl
@[simp] theorem radioEvent_hostData (r : RadioState) (s : State) : (radioEvent r s).hostData = s.hostData := rfl
@[simp] theorem radioEvent_snap (r : RadioState) (s : State) : (radioEvent r s).snap = s.snap := rfl
@[simp] theorem radioEvent_draws (r : RadioState) (s : State) : (radioEvent r s).draws = s.draws := rfl
@[simp] theorem radioEvent_freeUses (r : RadioState) (s : State) : (radioEvent r s).freeUses = s.freeUsesAfter := rfl

/-! `advanceEng` -/
@[simp] theorem advanceEng_cfg (k : Option Kind) (e : Eng) (s : State) : (advanceEng k e s).cfg = s.cfg := by unfold advanceEng; split <;> rfl
@[simp] theorem advanceEng_eng (k : Option Kind) (e : Eng) (s : State) : (advanceEng k e s).eng = if s.eng = .awTx ∧ s.opKind = k then e else s.eng := by unfold advanceEng; split <;> rfl
@[simp] theorem advanceEng_mode (k : Option Kind) (e : Eng) (s : State) : (advanceEng k e s).mode = s.mode := by unfold advanceEng; split <;> rfl
@[simp] theorem advanceEng_avail (k : Option Kind) (e : Eng) (s : State) : (advanceEng k e s).avail = s.avail := by unfold advanceEng; split <;> rfl
@[simp] theorem advanceEng_outPid (k : Option Kind) (e : Eng) (s : State) : (advanceEng k e s).outPid = s.outPid := by unfold advanceEng; split <;> rfl
@[simp] theorem advanceEng_curKind (k : Option Kind) (e : Eng) (s : State) : (advanceEng k e s).curKind = s.curKind := by unfold advanceEng; split <;> rfl
@[simp] theorem advanceEng_opKind (k : Option Kind) (e : Eng) (s : State) : (advanceEng k e s).opKind = s.opKind := by unfold advanceEng; split <;> rfl
@[simp] theorem advanceEng_reqDst (k : Option Kind) (e : Eng) (s : State) : (advanceEng k e s).reqDst = s.reqDst := by unfold advanceEng; split <;> rfl
@[simp] theorem advanceEng_reqPayload (k : Option Kind) (e : Eng) (s : State) : (advanceEng k e s).reqPayload = s.reqPayload := by unfold advanceEng; split <;> rfl
@[simp] theorem advanceEng_retry (k : Option Kind) (e : Eng) (s : State) : (advanceEng k e s).retry = s.retry := by unfold advanceEng; split <;> rfl
@[simp] theorem advanceEng_timeout (k : Option Kind) (e : Eng) (s : State) : (advanceEng k e s).timeout = s.timeout := by unfold advanceEng; split <;> rfl
@[simp] theorem advanceEng_attempt (k : Option Kind) (e : Eng) (s : State) : (advanceEng k e s).attempt = s.attempt := by unfold advanceEng; split <;> rfl
@[simp] theorem advanceEng_timerArmed (k : Option Kind) (e : Eng) (s : State) : (advanceEng k e s).timerArmed = s.timerArmed := by unfold advanceEng; split <;> rfl
@[simp] theorem advanceEng_hopIdx (k : Option Kind) (e : Eng) (s : State) : (advanceEng k e s).hopIdx = s.hopIdx := by unfold advanceEng; split <;> rfl
@[simp] theorem advanceEng_route (k : Option Kind) (e : Eng) (s : State) : (advanceEng k e s).route = s.route := by unfold advanceEng; split <;> rfl
@[simp] theorem advanceEng_evq (k : Option Kind) (e : Eng) (s : State) : (advanceEng k e s).evq = s.evq := by unfold advanceEng; split <;> rfl
@[simp] theorem advanceEng_log (k : Option Kind) (e : Eng) (s : State) : (advanceEng k e s).log = s.log := by unfold advanceEng; split <;> rfl
@[simp] theorem advanceEng_fault (k : Option Kind) (e : Eng) (s : State) : (advanceEng k e s).fault = s.fault := by unfold advanceEng; split <;> rfl
@[simp] theorem advanceEng_result (k : Option Kind) (e : Eng) (s : State) : (advanceEng k e s).result = s.result := by unfold advanceEng; split <;> rfl
@[simp] theorem advanceEng_edge0 (k : Option Kind) (e : Eng) (s : State) : (advanceEng k e s).edge0 = s.edge0 := by unfold advanceEng; split <;> rfl
@[simp] theorem advanceEng_edge1 (k : Option Kind) (e : Eng) (s : State) : (advanceEng k e s).edge1 = s.edge1 := by unfold advanceEng; split <;> rfl
@[simp] theorem advanceEng_destReg (k : Option Kind) (e : Eng) (s : State) : (advanceEng k e s).destReg = s.destReg := by unfold advanceEng; split <;> rfl
@[simp] theorem advanceEng_retryReg (k : Option Kind) (e : Eng) (s : State) : (advanceEng k e s).retryReg = s.retryReg := by unfold advanceEng; split <;> rfl
@[simp] theorem advanceEng_plenReg (k : Option Kind) (e : Eng) (s : State) : (advanceEng k e s).plenReg = s.plenReg := by unfold advanceEng; split <;> rfl
@[simp] theorem advanceEng_timeoutReg (k : Option Kind) (e : Eng) (s : State) : (advanceEng k e s).timeoutReg = s.timeoutReg := by unfold advanceEng; split <;> rfl
@[simp] theorem advanceEng_mem (k : Option Kind) (e : Eng) (s : State) : (advanceEng k e s).mem = s.mem := by unfold advanceEng; split <;> rfl
@[simp] theorem advanceEng_radio (k : Option Kind) (e : Eng) (s : State) : (advanceEng k e s).radio = s.radio := by unfold advanceEng; split <;> rfl
@[simp] theorem advanceEng_trace (k : Option Kind) (e : Eng) (s : State) : (advanceEng k e s).trace = s.trace := by unfold advanceEng; split <;> rfl
@[simp] theorem advanceEng_script (k : Option Kind) (e : Eng) (s : State) : (advanceEng k e s).script = s.script := by unfold advanceEng; split <;> rfl
@[simp] theorem advanceEng_hostData (k : Option Kind) (e : Eng) (s : State) : (advanceEng k e s).hostData = s.hostData := by unfold advanceEng; split <;> rfl
@[simp] theorem advanceEng_snap (k : Option Kind) (e : Eng) (s : State) : (advanceEng k e s).snap = s.snap := by unfold advanceEng; split <;> rfl
@[simp] theorem advanceEng_draws (k : Option Kind) (e : Eng) (s : State) : (advanceEng k e s).draws = s.draws := by unfold advanceEng; split <;> rfl
@[simp] theorem advanceEng_freeUses (k : Option Kind) (e : Eng) (s : State) : (advanceEng k e s).freeUses = s.freeUses := by unfold advanceEng; split <;> rfl

/-! `requestTxRecord` -/
@[simp] theorem requestTxRecord_cfg (s : State) : (requestTxRecord s).cfg = s.cfg := by unfold requestTxRecord; split <;> rfl
@[simp] theorem requestTxRecord_eng (s : State) : (requestTxRecord s).eng = s.eng := by unfold requestTxRecord; split <;> rfl
@[simp] theorem requestTxRecord_mode (s : State) : (requestTxRecord s).mode = s.mode := by unfold requestTxRecord; split <;> rfl
@[simp] theorem requestTxRecord_avail (s : State) : (requestTxRecord s).avail = s.avail := by unfold requestTxRecord; split <;> rfl
@[simp] theorem requestTxRecord_outPid (s : State) : (requestTxRecord s).outPid = s.outPid := by unfold requestTxRecord; split <;> rfl
@[simp] theorem requestTxRecord_curKind (s : State) : (requestTxRecord s).curKind = s.curKind := by unfold requestTxRecord; split <;> rfl
@[simp] theorem requestTxRecord_opKind (s : State) : (requestTxRecord s).opKind = s.opKind := by unfold requestTxRecord; split <;> rfl
@[simp] theorem requestTxRecord_reqDst (s : State) : (requestTxRecord s).reqDst = s.reqDst := by unfold requestTxRecord; split <;> rfl
@[simp] theorem requestTxRecord_reqPayload (s : State) : (requestTxRecord s).reqPayload = s.reqPayload := by unfold requestTxRecord; split <;> rfl
@[simp] theorem requestTxRecord_retry (s : State) : (requestTxRecord s).retry = s.retry := by unfold requestTxRecord; split <;> rfl
@[simp] theorem requestTxRecord_timeout (s : State) : (requestTxRecord s).timeout = s.timeout := by unfold requestTxRecord; split <;> rfl
@[simp] theorem requestTxRecord_attempt (s : State) : (requestTxRecord s).attempt = s.attempt := by unfold requestTxRecord; split <;> rfl
@[simp] theorem requestTxRecord_timerArmed (s : State) : (requestTxRecord s).timerArmed = s.timerArmed := by unfold requestTxRecord; split <;> rfl
@[simp] theorem requestTxRecord_hopIdx (s : State) : (requestTxRecord s).hopIdx = s.hopIdx := by unfold requestTxRecord; split <;> rfl
@[simp] theorem requestTxRecord_route (s : State) : (requestTxRecord s).route = s.route := by unfold requestTxRecord; split <;> rfl
@[simp] theorem requestTxRecord_evq (s : State) : (requestTxRecord s).evq = if s.cfg.txcOnRequest = true then s.evq ++ [txCompleteRecord] else s.evq := by unfold requestTxRecord; split <;> rfl
@[simp] theorem requestTxRecord_log (s : State) : (requestTxRecord s).log = s.log := by unfold requestTxRecord; split <;> rfl
@[simp] theorem requestTxRecord_fault (s : State) : (requestTxRecord s).fault = s.fault := by unfold requestTxRecord; split <;> rfl
@[simp] theorem requestTxRecord_result (s : State) : (requestTxRecord s).result = s.result := by unfold requestTxRecord; split <;> rfl
@[simp] theorem requestTxRecord_edge0 (s : State) : (requestTxRecord s).edge0 = s.edge0 := by unfold requestTxRecord; split <;> rfl
@[simp] theorem requestTxRecord_edge1 (s : State) : (requestTxRecord s).edge1 = s.edge1 := by unfold requestTxRecord; split <;> rfl
@[simp] theorem requestTxRecord_destReg (s : State) : (requestTxRecord s).destReg = s.destReg := by unfold requestTxRecord; split <;> rfl
@[simp] theorem requestTxRecord_retryReg (s : State) : (requestTxRecord s).retryReg = s.retryReg := by unfold requestTxRecord; split <;> rfl
@[simp] theorem requestTxRecord_plenReg (s : State) : (requestTxRecord s).plenReg = s.plenReg := by unfold requestTxRecord; split <;> rfl
@[simp] theorem requestTxRecord_timeoutReg (s : State) : (requestTxRecord s).timeoutReg = s.timeoutReg := by unfold requestTxRecord; split <;> rfl
@[simp] theorem requestTxRecord_mem (s : State) : (requestTxRecord s).mem = s.mem := by unfold requestTxRecord; split <;> rfl
@[simp] theorem requestTxRecord_radio (s : State) : (requestTxRecord s).radio = s.radio := by unfold requestTxRecord; split <;> rfl
@[simp] theorem requestTxRecord_trace (s : State) : (requestTxRecord s).trace = s.trace := by unfold requestTxRecord; split <;> rfl
@[simp] theorem requestTxRecord_script (s : State) : (requestTxRecord s).script = s.script := by unfold requestTxRecord; split <;> rfl
@[simp] theorem requestTxRecord_hostData (s : State) : (requestTxRecord s).hostData = s.hostData := by unfold requestTxRecord; split <;> rfl
@[simp] theorem requestTxRecord_snap (s : State) : (requestTxRecord s).snap = s.snap := by unfold requestTxRecord; split <;> rfl
@[simp] theorem requestTxRecord_draws (s : State) : (requestTxRecord s).draws = s.draws := by unfold requestTxRecord; split <;> rfl
@[simp] theorem requestTxRecord_freeUses (s : State) : (requestTxRecord s).freeUses = s.freeUses := by unfold requestTxRecord; split <;> rfl

/-! `copyRequest` -/
@[simp] theorem copyRequest_cfg (s : State) : (copyRequest s).cfg = s.cfg := rfl
@[simp] theorem copyRequest_eng (s : State) : (copyRequest s).eng = s.eng := rfl
@[simp] theorem copyRequest_mode (s : State) : (copyRequest s).mode = s.mode := rfl
@[simp] theorem copyRequest_avail (s : State) : (copyRequest s).avail = s.avail := rfl
@[simp] theorem copyRequest_outPid (s : State) : (copyRequest s).outPid = s.outPid := rfl
@[simp] theorem copyRequest_curKind (s : State) : (copyRequest s).curKind = s.curKind := rfl
@[simp] theorem copyRequest_opKind (s : State) : (copyRequest s).opKind = some .req := rfl
@[simp] theorem copyRequest_reqDst (s : State) : (copyRequest s).reqDst = s.destReg := rfl
@[simp] theorem copyRequest_reqPayload (s : State) : (copyRequest s).reqPayload = sendPayload s := rfl
@[simp] theorem copyRequest_retry (s : State) : (copyRequest s).retry = s.retryReg := rfl
@[simp] theorem copyRequest_timeout (s : State) : (copyRequest s).timeout = s.timeoutReg := rfl
@[simp] theorem copyRequest_attempt (s : State) : (copyRequest s).attempt = 0#8 := rfl
@[simp] theorem copyRequest_timerArmed (s : State) : (copyRequest s).timerArmed = s.timerArmed := rfl
@[simp] theorem copyRequest_hopIdx (s : State) : (copyRequest s).hopIdx = s.hopIdx := rfl
@[simp] theorem copyRequest_route (s : State) : (copyRequest s).route = s.route := rfl
@[simp] theorem copyRequest_evq (s : State) : (copyRequest s).evq = s.evq := rfl
@[simp] theorem copyRequest_log (s : State) : (copyRequest s).log = s.log := rfl
@[simp] theorem copyRequest_fault (s : State) : (copyRequest s).fault = s.fault := rfl
@[simp] theorem copyRequest_result (s : State) : (copyRequest s).result = s.result := rfl
@[simp] theorem copyRequest_edge0 (s : State) : (copyRequest s).edge0 = s.edge0 := rfl
@[simp] theorem copyRequest_edge1 (s : State) : (copyRequest s).edge1 = s.edge1 := rfl
@[simp] theorem copyRequest_destReg (s : State) : (copyRequest s).destReg = s.destReg := rfl
@[simp] theorem copyRequest_retryReg (s : State) : (copyRequest s).retryReg = s.retryReg := rfl
@[simp] theorem copyRequest_plenReg (s : State) : (copyRequest s).plenReg = s.plenReg := rfl
@[simp] theorem copyRequest_timeoutReg (s : State) : (copyRequest s).timeoutReg = s.timeoutReg := rfl
@[simp] theorem copyRequest_mem (s : State) : (copyRequest s).mem = s.mem := rfl
@[simp] theorem copyRequest_radio (s : State) : (copyRequest s).radio = s.radio := rfl
@[simp] theorem copyRequest_trace (s : State) : (copyRequest s).trace = s.trace := rfl
@[simp] theorem copyRequest_script (s : State) : (copyRequest s).script = s.script := rfl
@[simp] theorem copyRequest_hostData (s : State) : (copyRequest s).hostData = s.hostData := rfl
@[simp] theorem copyRequest_snap (s : State) : (copyRequest s).snap = s.snap := rfl
@[simp] theorem copyRequest_draws (s : State) : (copyRequest s).draws = s.draws := rfl
@[simp] theorem copyRequest_freeUses (s : State) : (copyRequest s).freeUses = s.freeUses := rfl

/-! `takeHostPid` -/
@[simp] theorem takeHostPid_cfg (s : State) : (takeHostPid s).cfg = s.cfg := by unfold takeHostPid; split <;> simp_all
@[simp] theorem takeHostPid_eng (s : State) : (takeHostPid s).eng = s.eng := by unfold takeHostPid; split <;> simp_all
@[simp] theorem takeHostPid_mode (s : State) : (takeHostPid s).mode = s.mode := by unfold takeHostPid; split <;> simp_all
@[simp] theorem takeHostPid_avail (s : State) : (takeHostPid s).avail = s.avail := by unfold takeHostPid; split <;> simp_all
@[simp] theorem takeHostPid_outPid (s : State) : (takeHostPid s).outPid = s.outPid := by unfold takeHostPid; split <;> simp_all
@[simp] theorem takeHostPid_curKind (s : State) : (takeHostPid s).curKind = s.curKind := by unfold takeHostPid; split <;> simp_all
@[simp] theorem takeHostPid_opKind (s : State) : (takeHostPid s).opKind = s.opKind := by unfold takeHostPid; split <;> simp_all
@[simp] theorem takeHostPid_reqDst (s : State) : (takeHostPid s).reqDst = s.reqDst := by unfold takeHostPid; split <;> simp_all
@[simp] theorem takeHostPid_reqPayload (s : State) : (takeHostPid s).reqPayload = s.reqPayload := by unfold takeHostPid; split <;> simp_all
@[simp] theorem takeHostPid_retry (s : State) : (takeHostPid s).retry = s.retry := by unfold takeHostPid; split <;> simp_all
@[simp] theorem takeHostPid_timeout (s : State) : (takeHostPid s).timeout = s.timeout := by unfold takeHostPid; split <;> simp_all
@[simp] theorem takeHostPid_attempt (s : State) : (takeHostPid s).attempt = s.attempt := by unfold takeHostPid; split <;> simp_all
@[simp] theorem takeHostPid_timerArmed (s : State) : (takeHostPid s).timerArmed = s.timerArmed := by unfold takeHostPid; split <;> simp_all
@[simp] theorem takeHostPid_hopIdx (s : State) : (takeHostPid s).hopIdx = s.hopIdx := by unfold takeHostPid; split <;> simp_all
@[simp] theorem takeHostPid_route (s : State) : (takeHostPid s).route = s.route := by unfold takeHostPid; split <;> simp_all
@[simp] theorem takeHostPid_evq (s : State) : (takeHostPid s).evq = s.evq := by unfold takeHostPid; split <;> simp_all
@[simp] theorem takeHostPid_log (s : State) : (takeHostPid s).log = s.log := by unfold takeHostPid; split <;> simp_all
@[simp] theorem takeHostPid_fault (s : State) : (takeHostPid s).fault = s.fault := by unfold takeHostPid; split <;> simp_all
@[simp] theorem takeHostPid_result (s : State) : (takeHostPid s).result = s.result := by unfold takeHostPid; split <;> simp_all
@[simp] theorem takeHostPid_edge0 (s : State) : (takeHostPid s).edge0 = s.edge0 := by unfold takeHostPid; split <;> simp_all
@[simp] theorem takeHostPid_edge1 (s : State) : (takeHostPid s).edge1 = s.edge1 := by unfold takeHostPid; split <;> simp_all
@[simp] theorem takeHostPid_destReg (s : State) : (takeHostPid s).destReg = s.destReg := by unfold takeHostPid; split <;> simp_all
@[simp] theorem takeHostPid_retryReg (s : State) : (takeHostPid s).retryReg = s.retryReg := by unfold takeHostPid; split <;> simp_all
@[simp] theorem takeHostPid_plenReg (s : State) : (takeHostPid s).plenReg = s.plenReg := by unfold takeHostPid; split <;> simp_all
@[simp] theorem takeHostPid_timeoutReg (s : State) : (takeHostPid s).timeoutReg = s.timeoutReg := by unfold takeHostPid; split <;> simp_all
@[simp] theorem takeHostPid_mem (s : State) : (takeHostPid s).mem = s.mem := by unfold takeHostPid; split <;> simp_all
@[simp] theorem takeHostPid_radio (s : State) : (takeHostPid s).radio = s.radio := by unfold takeHostPid; split <;> simp_all
@[simp] theorem takeHostPid_trace (s : State) : (takeHostPid s).trace = s.trace := by unfold takeHostPid; split <;> simp_all
@[simp] theorem takeHostPid_script (s : State) : (takeHostPid s).script = s.script := by unfold takeHostPid; split <;> simp_all
@[simp] theorem takeHostPid_hostData (s : State) : (takeHostPid s).hostData = s.hostData := by unfold takeHostPid; split <;> simp_all
@[simp] theorem takeHostPid_snap (s : State) : (takeHostPid s).snap = s.snap := by unfold takeHostPid; split <;> simp_all
@[simp] theorem takeHostPid_draws (s : State) : (takeHostPid s).draws = if s.cfg.hostPid = .draw then s.draws + 1 else s.draws := by unfold takeHostPid; split <;> simp_all
@[simp] theorem takeHostPid_freeUses (s : State) : (takeHostPid s).freeUses = s.freeUses := by unfold takeHostPid; split <;> simp_all

/-! `readLinkQuality` -/
@[simp] theorem readLinkQuality_cfg (s : State) : (readLinkQuality s).cfg = s.cfg := rfl
@[simp] theorem readLinkQuality_eng (s : State) : (readLinkQuality s).eng = s.eng := rfl
@[simp] theorem readLinkQuality_mode (s : State) : (readLinkQuality s).mode = s.mode := rfl
@[simp] theorem readLinkQuality_avail (s : State) : (readLinkQuality s).avail = s.avail := rfl
@[simp] theorem readLinkQuality_outPid (s : State) : (readLinkQuality s).outPid = s.outPid := rfl
@[simp] theorem readLinkQuality_curKind (s : State) : (readLinkQuality s).curKind = s.curKind := rfl
@[simp] theorem readLinkQuality_opKind (s : State) : (readLinkQuality s).opKind = s.opKind := rfl
@[simp] theorem readLinkQuality_reqDst (s : State) : (readLinkQuality s).reqDst = s.reqDst := rfl
@[simp] theorem readLinkQuality_reqPayload (s : State) : (readLinkQuality s).reqPayload = s.reqPayload := rfl
@[simp] theorem readLinkQuality_retry (s : State) : (readLinkQuality s).retry = s.retry := rfl
@[simp] theorem readLinkQuality_timeout (s : State) : (readLinkQuality s).timeout = s.timeout := rfl
@[simp] theorem readLinkQuality_attempt (s : State) : (readLinkQuality s).attempt = s.attempt := rfl
@[simp] theorem readLinkQuality_timerArmed (s : State) : (readLinkQuality s).timerArmed = s.timerArmed := rfl
@[simp] theorem readLinkQuality_hopIdx (s : State) : (readLinkQuality s).hopIdx = s.hopIdx := rfl
@[simp] theorem readLinkQuality_route (s : State) : (readLinkQuality s).route = s.route := rfl
@[simp] theorem readLinkQuality_evq (s : State) : (readLinkQuality s).evq = s.evq := rfl
@[simp] theorem readLinkQuality_log (s : State) : (readLinkQuality s).log = s.log := rfl
@[simp] theorem readLinkQuality_fault (s : State) : (readLinkQuality s).fault = s.fault := rfl
@[simp] theorem readLinkQuality_result (s : State) : (readLinkQuality s).result = s.result := rfl
@[simp] theorem readLinkQuality_edge0 (s : State) : (readLinkQuality s).edge0 = s.edge0 := rfl
@[simp] theorem readLinkQuality_edge1 (s : State) : (readLinkQuality s).edge1 = s.edge1 := rfl
@[simp] theorem readLinkQuality_destReg (s : State) : (readLinkQuality s).destReg = s.destReg := rfl
@[simp] theorem readLinkQuality_retryReg (s : State) : (readLinkQuality s).retryReg = s.retryReg := rfl
@[simp] theorem readLinkQuality_plenReg (s : State) : (readLinkQuality s).plenReg = s.plenReg := rfl
@[simp] theorem readLinkQuality_timeoutReg (s : State) : (readLinkQuality s).timeoutReg = s.timeoutReg := rfl
@[simp] theorem readLinkQuality_mem (s : State) : (readLinkQuality s).mem = s.mem := rfl
@[simp] theorem readLinkQuality_radio (s : State) : (readLinkQuality s).radio = s.radio := rfl
@[simp] theorem readLinkQuality_trace (s : State) : (readLinkQuality s).trace = s.trace ++ [.read .pktSnrValue s.radio.snrRaw] ++ [.read .pktRssiValue s.radio.rssiRaw] := rfl
@[simp] theorem readLinkQuality_script (s : State) : (readLinkQuality s).script = s.script := rfl
@[simp] theorem readLinkQuality_hostData (s : State) : (readLinkQuality s).hostData = s.hostData := rfl
@[simp] theorem readLinkQuality_snap (s : State) : (readLinkQuality s).snap = s.snap := rfl
@[simp] theorem readLinkQuality_draws (s : State) : (readLinkQuality s).draws = s.draws := rfl
@[simp] theorem readLinkQuality_freeUses (s : State) : (readLinkQuality s).freeUses = s.freeUses := rfl

/-! `settleRequest` -/
@[simp] theorem settleRequest_cfg (s : State) : (settleRequest s).cfg = s.cfg := by unfold settleRequest; split <;> rfl
@[simp] theorem settleRequest_mode (s : State) : (settleRequest s).mode = s.mode := by unfold settleRequest; split <;> rfl
@[simp] theorem settleRequest_avail (s : State) : (settleRequest s).avail = s.avail := by unfold settleRequest; split <;> rfl
@[simp] theorem settleRequest_outPid (s : State) : (settleRequest s).outPid = s.outPid := by unfold settleRequest; split <;> rfl
@[simp] theorem settleRequest_curKind (s : State) : (settleRequest s).curKind = s.curKind := by unfold settleRequest; split <;> rfl
@[simp] theorem settleRequest_opKind (s : State) : (settleRequest s).opKind = s.opKind := by unfold settleRequest; split <;> rfl
@[simp] theorem settleRequest_reqDst (s : State) : (settleRequest s).reqDst = s.reqDst := by unfold settleRequest; split <;> rfl
@[simp] theorem settleRequest_reqPayload (s : State) : (settleRequest s).reqPayload = s.reqPayload := by unfold settleRequest; split <;> rfl
@[simp] theorem settleRequest_retry (s : State) : (settleRequest s).retry = s.retry := by unfold settleRequest; split <;> rfl
@[simp] theorem settleRequest_timeout (s : State) : (settleRequest s).timeout = s.timeout := by unfold settleRequest; split <;> rfl
@[simp] theorem settleRequest_attempt (s : State) : (settleRequest s).attempt = s.attempt := by unfold settleRequest; split <;> rfl
@[simp] theorem settleRequest_hopIdx (s : State) : (settleRequest s).hopIdx = s.hopIdx := by unfold settleRequest; split <;> rfl
@[simp] theorem settleRequest_route (s : State) : (settleRequest s).route = s.route := by unfold settleRequest; split <;> rfl
@[simp] theorem settleRequest_evq (s : State) : (settleRequest s).evq = s.evq := by unfold settleRequest; split <;> rfl
@[simp] theorem settleRequest_log (s : State) : (settleRequest s).log = s.log := by unfold settleRequest; split <;> rfl
@[simp] theorem settleRequest_fault (s : State) : (settleRequest s).fault = s.fault := by unfold settleRequest; split <;> rfl
@[simp] theorem settleRequest_edge0 (s : State) : (settleRequest s).edge0 = s.edge0 := by unfold settleRequest; split <;> rfl
@[simp] theorem settleRequest_edge1 (s : State) : (settleRequest s).edge1 = s.edge1 := by unfold settleRequest; split <;> rfl
@[simp] theorem settleRequest_destReg (s : State) : (settleRequest s).destReg = s.destReg := by unfold settleRequest; split <;> rfl
@[simp] theorem settleRequest_retryReg (s : State) : (settleRequest s).retryReg = s.retryReg := by unfold settleRequest; split <;> rfl
@[simp] theorem settleRequest_plenReg (s : State) : (settleRequest s).plenReg = s.plenReg := by unfold settleRequest; split <;> rfl
@[simp] theorem settleRequest_timeoutReg (s : State) : (settleRequest s).timeoutReg = s.timeoutReg := by unfold settleRequest; split <;> rfl
@[simp] theorem settleRequest_mem (s : State) : (settleRequest s).mem = s.mem := by unfold settleRequest; split <;> rfl
@[simp] theorem settleRequest_radio (s : State) : (settleRequest s).radio = s.radio := by unfold settleRequest; split <;> rfl
@[simp] theorem settleRequest_trace (s : State) : (settleRequest s).trace = s.trace := by unfold settleRequest; split <;> rfl
@[simp] theorem settleRequest_script (s : State) : (settleRequest s).script = s.script := by unfold settleRequest; split <;> rfl
@[simp] theorem settleRequest_hostData (s : State) : (settleRequest s).hostData = s.hostData := by unfold settleRequest; split <;> rfl
@[simp] theorem settleRequest_snap (s : State) : (settleRequest s).snap = s.snap := by unfold settleRequest; split <;> rfl
@[simp] theorem settleRequest_draws (s : State) : (settleRequest s).draws = s.draws := by unfold settleRequest; split <;> rfl
@[simp] theorem settleRequest_freeUses (s : State) : (settleRequest s).freeUses = s.freeUses := by unfold settleRequest; split <;> rfl

end Sys2Proof.Machine
end

