-- ==== Sys2Proof/Laws/Modes.lean ====
section
/-! SUPPORT. What the Hop Synchronizer and the Mode Controller do, said once in the vocabulary of the statements: each lemma
gives the whole flow of one procedure in one case, and the `_cases` lemmas say that there is no other. -/

namespace Sys2Proof.Machine

open Sys2Proof.Claims

@[simp] theorem Flow.andThen_run (s : State) (k : State → Flow) : (Flow.run s).andThen k = k s := rfl
@[simp] theorem Flow.andThen_ended (s : State) (k : State → Flow) : (Flow.ended s).andThen k = .ended s := rfl
@[simp] theorem Flow.andThen_broken (f : Fault) (k : State → Flow) : (Flow.broken f).andThen k = .broken f := rfl
@[simp] theorem Flow.outcome_run (s : State) : (Flow.run s).outcome = .next s := rfl
@[simp] theorem Flow.outcome_ended (s : State) : (Flow.ended s).outcome = .next s := rfl
@[simp] theorem Flow.outcome_broken (f : Fault) : (Flow.broken f).outcome = .fault f := rfl

/-- A raised fault ends the step with the fault recorded. -/
@[simp] theorem raiseFault_eq (c : PeFault) (s : State) : raiseFault c s = .ended (faulted c s) := rfl

/-- `RadioWrite(RegOpMode, …); s.mode <- m`. -/
theorem commandMode_eq (m : RadioMode) (s : State) : commandMode m s = modeWritten m m.code s := by
  have h : opmodeByte s.cfg m = opModeByte s m.code := by
    unfold opmodeByte opModeByte
    generalize s.cfg.lfMode = l
    revert l; cases m <;> decide
  have h1 : (opModeByte s m.code).extractLsb' 0 3 = m.code := by
    unfold opModeByte
    generalize s.cfg.lfMode = l
    revert l; cases m <;> decide
  have h2 : decide (m.code = 0b011#3) = decide (m = .tx) := by cases m <;> decide
  simp only [commandMode, modeWritten, radioWrite, applyWrite, record, h, h1, h2]

/-- The routing writes of R86. -/
theorem routeLines_eq (r : LineRoute) (s : State) : routeLines r s = routed r.pair r.dioByte s := by
  simp [routeLines, routed, radioWrite, applyWrite, remapLines, record, State.unrouted, risesOnRemap]
  exact ⟨rfl, rfl⟩

/-- The hop-channel read of R107. -/
theorem readHopIndex_eq (s : State) : readHopIndex s = hopRead s := by
  have h : hopIndex s.radio.hopCh = s.radio.hopCh.setWidth 6 := by
    simp [hopIndex, BitVec.extractLsb']
  simp [readHopIndex, hopRead, hopSlot, radioRead, record, radioValue, h]

theorem hopIndex_eq (s : State) : hopIndex (radioValue .hopChannel s) = hopSlot s := by
  simp [hopIndex, radioValue, hopSlot, BitVec.extractLsb']

/-- The three carrier writes leave the whole carrier in the radio. -/
theorem writeCarrier_eq (c : Carrier) (s : State) :
    writeCarrier c s = { s with
      radio := { s.radio with frf := c }
      trace := s.trace ++
        [.write .frfMsb (c.extractLsb' 16 8), .write .frfMid (c.extractLsb' 8 8), .write .frfLsb (c.extractLsb' 0 8)] } := by
  have h : ∀ old : BitVec 24,
      (((c.extractLsb' 16 8 ++ old.extractLsb' 0 16).extractLsb' 16 8 ++ c.extractLsb' 8 8 ++
        (c.extractLsb' 16 8 ++ old.extractLsb' 0 16).extractLsb' 0 8 : BitVec 24).extractLsb' 8 16 ++ c.extractLsb' 0 8 : BitVec 24) = c := by
    intro old
    apply BitVec.eq_of_getLsbD_eq
    intro i hi
    simp only [BitVec.getLsbD_append, BitVec.getLsbD_extractLsb']
    interval_cases i <;> simp
  simp [writeCarrier, radioWrite, applyWrite, record, h]

/-! ### resync (R107) -/

theorem resync_eq (s : State) : resync s = tuneTo (tableEntry s) (hopRead s) := by
  rw [resync, readHopIndex_eq, hopIndex_eq]; rfl

/-- The carrier steps of the statements are `frf_of` of the configuration. -/
theorem frfOf_eq_steps (s : State) (f : BitVec 32) : frfOf s.cfg f.toNat = steps s f := rfl

/-- The carrier steps depend on the configuration alone. -/
theorem steps_congr {s t : State} (h : t.cfg = s.cfg) (f : BitVec 32) : steps t f = steps s f := by
  unfold steps; rw [h]

theorem resync_of_tunable {s : State} {f : BitVec 32} (h : tunable s f) : resync s = .run (tuned f s) := by
  have h3 : ¬ frfOf (hopRead s).cfg f.toNat ≥ 2 ^ 24 := by
    exact Nat.not_le.mpr h.2
  rw [resync_eq, h.1]
  simp only [tuneTo, if_neg h3, writeCarrier_eq]
  simp only [tuned, hopRead, carrier, List.append_assoc]
  rfl

theorem resync_of_unwritten {s : State} (h : tableEntry s = none) :
    resync s = .ended (faulted .ftabUnwritten (hopRead s)) := by
  rw [resync_eq, h]; rfl

theorem resync_of_overflow {s : State} {f : BitVec 32} (h : tableEntry s = some f)
    (hf : 16777216 ≤ steps s f) : resync s = .ended (faulted .frfOverflow (hopRead s)) := by
  have h3 : frfOf (hopRead s).cfg f.toNat ≥ 2 ^ 24 := hf
  rw [resync_eq, h]
  simp only [tuneTo, if_pos h3]
  rfl

/-- resync where it fails. -/
theorem resync_of_fails {s : State} {c : PeFault} (h : resyncFails s c) : resync s = .ended (faulted c (hopRead s)) := by
  rcases h with ⟨he, rfl⟩ | ⟨f, he, hf, rfl⟩
  · exact resync_of_unwritten he
  · exact resync_of_overflow he hf

/-- Everything resync can do: tune, or end the step with one of its two faults. -/
theorem resync_cases (s : State) :
    (∃ f, tunable s f ∧ resync s = .run (tuned f s)) ∨
      ∃ c, (c = .ftabUnwritten ∨ c = .frfOverflow) ∧ (∀ f, ¬ tunable s f) ∧ resync s = .ended (faulted c (hopRead s)) := by
  cases h : tableEntry s with
  | none => exact .inr ⟨_, .inl rfl, fun f hf => by simp [tunable, h] at hf, resync_of_unwritten h⟩
  | some f =>
    by_cases hf : steps s f < 16777216
    · exact .inl ⟨f, ⟨h, hf⟩, resync_of_tunable ⟨h, hf⟩⟩
    · refine .inr ⟨_, .inr rfl, fun g hg => ?_, resync_of_overflow h (by omega)⟩
      obtain ⟨h1, h2⟩ := hg
      rw [h] at h1
      cases h1
      exact hf h2

/-! ### set_mode (R86) -/

theorem setMode_same {m : RadioMode} {s : State} (h : s.mode = some m) : setMode m s = .run s := by
  simp [setMode, h]

theorem setMode_standby (s : State) : setMode .standby s = .run (stoodBy s) := by
  unfold setMode stoodBy
  split
  · rfl
  · simp only [changeMode, commandMode_eq, routeLines_eq]; rfl

theorem setMode_sleep {s : State} (h : s.mode ≠ some .sleep) :
    setMode .sleep s = .run (modeWritten .sleep 0b000#3 s) := by
  simp only [setMode, if_neg h, changeMode, commandMode_eq]; rfl

theorem setMode_rxs {s : State} (h : s.mode ≠ some .rxs) : setMode .rxs s = .run (modeWritten .rxs 0b110#3 s) := by
  simp only [setMode, if_neg h, changeMode, commandMode_eq]; rfl

theorem setMode_cad {s : State} (h : s.mode ≠ some .cad) : setMode .cad s = .run (modeWritten .cad 0b111#3 s) := by
  simp only [setMode, if_neg h, changeMode, commandMode_eq]; rfl

theorem setMode_tx {s : State} {f : BitVec 32} (h : s.mode ≠ some .tx) (hf : tunable s f) :
    setMode .tx s = .run (enteredTx f s) := by
  simp only [setMode, if_neg h, changeMode, enterActive, resync_of_tunable hf, Flow.andThen_run, commandMode_eq, routeLines_eq]
  rfl

theorem setMode_rxc {s : State} {f : BitVec 32} (h : s.mode ≠ some .rxc) (hf : tunable s f) :
    setMode .rxc s = .run (enteredRxc f s) := by
  simp only [setMode, if_neg h, changeMode, enterActive, resync_of_tunable hf, Flow.andThen_run, commandMode_eq, routeLines_eq]
  rfl

theorem setMode_tx_ended {s s' : State} (h : s.mode ≠ some .tx) (hr : resync s = .ended s') : setMode .tx s = .ended s' := by
  simp only [setMode, if_neg h, changeMode, enterActive, hr, Flow.andThen_ended]

theorem setMode_rxc_ended {s s' : State} (h : s.mode ≠ some .rxc) (hr : resync s = .ended s') :
    setMode .rxc s = .ended s' := by
  simp only [setMode, if_neg h, changeMode, enterActive, hr, Flow.andThen_ended]

/-- `rx_resume()` where it meets no fault. -/
theorem setMode_rxc_of_resumable {s : State} {f : BitVec 32} (h : resumable s f) : setMode .rxc s = .run (resumed f s) := by
  unfold resumed
  split
  · rename_i h'; exact setMode_same h'
  · rename_i h'; exact setMode_rxc h' (h h')

/-- `rx_resume()` where it meets a fault. -/
theorem setMode_rxc_of_resumeFails {s : State} {c : PeFault} (h : resumeFails s c) :
    setMode .rxc s = .ended (faulted c (hopRead s)) :=
  setMode_rxc_ended h.1 (resync_of_fails h.2)

/-- Everything `rx_resume()` can do. -/
theorem setMode_rxc_cases (s : State) :
    (∃ f, resumable s f ∧ setMode .rxc s = .run (resumed f s)) ∨
      ∃ c, (c = .ftabUnwritten ∨ c = .frfOverflow) ∧ setMode .rxc s = .ended (faulted c (hopRead s)) := by
  by_cases h : s.mode = some .rxc
  · have hr : resumable s 0#32 := fun h' => absurd h h'
    exact .inl ⟨0#32, hr, setMode_rxc_of_resumable hr⟩
  · rcases resync_cases s with ⟨f, hf, -⟩ | ⟨c, hc, -, hr⟩
    · exact .inl ⟨f, fun _ => hf, setMode_rxc_of_resumable fun _ => hf⟩
    · exact .inr ⟨c, hc, setMode_rxc_ended h hr⟩

/-! ### Sending one frame (R118) -/

/-- Encoding a payload that fits. -/
theorem encodeFrame_of_fits {s : State} {dst pid : Half} {kind : Kind} {payload : List Byte} (h : payload.length ≤ 240) :
    encodeFrame s.cfg.hdrOrder s.cfg.nodeId dst pid kind.code payload = some (frameOnAir s dst pid kind.code payload) := by
  have hp : ∀ (o : HdrOrder) (v : Half), putHalf o v = onAir o v := by
    intro o v
    have h1 : v.extractLsb' 8 8 = BitVec.ofNat 8 (v.toNat / 256) := by
      apply BitVec.eq_of_toNat_eq; simp [Nat.shiftRight_eq_div_pow]
    have h2 : v.extractLsb' 0 8 = BitVec.ofNat 8 v.toNat := by
      apply BitVec.eq_of_toNat_eq; simp
    cases o <;> simp [putHalf, onAir, h1, h2]
  have h' : ¬ payload.length > Config.maxPayload := Nat.not_lt.mpr h
  simp [encodeFrame, if_neg h', frameOnAir, headerBytes, hp]

theorem tunable_loaded {s : State} {frame : List Byte} {kind : Kind} {f : BitVec 32} :
    tunable (loaded frame kind (stoodBy s)) f ↔ tunable s f := by
  have h : (loaded frame kind (stoodBy s)).cfg = s.cfg := by simp
  simp [tunable, tableEntry, hopSlot, steps_congr h]

theorem tableEntry_loaded {s : State} {frame : List Byte} {kind : Kind} :
    tableEntry (loaded frame kind (stoodBy s)) = tableEntry s := by
  simp [tableEntry, hopSlot]

theorem sendFrame_eq {s : State} {dst pid : Half} {kind : Kind} {payload : List Byte} (h : payload.length ≤ 240) :
    sendFrame dst pid kind payload s =
      setMode .tx (loaded (frameOnAir s dst pid kind.code payload) kind (stoodBy s)) := by
  have hc := stoodBy_cfg s
  have he := encodeFrame_of_fits (s := stoodBy s) (dst := dst) (pid := pid) (kind := kind) h
  simp only [sendFrame, setMode_standby, Flow.andThen_run, transmitFrame, he]
  simp only [frameOnAir, hc]
  rfl

theorem sendFrame_of_tunable {s : State} {dst pid : Half} {kind : Kind} {payload : List Byte} {f : BitVec 32}
    (h : payload.length ≤ 240) (hf : tunable s f) :
    sendFrame dst pid kind payload s = .run (transmitted (frameOnAir s dst pid kind.code payload) kind f s) := by
  rw [sendFrame_eq h, setMode_tx (by simp [loaded]) (tunable_loaded.mpr hf)]
  rfl

theorem resyncFails_loaded {s : State} {frame : List Byte} {kind : Kind} {c : PeFault} :
    resyncFails (loaded frame kind (stoodBy s)) c ↔ resyncFails s c := by
  have h : (loaded frame kind (stoodBy s)).cfg = s.cfg := by simp
  simp [resyncFails, tableEntry_loaded, steps_congr h]

theorem sendFrame_of_fails {s : State} {dst pid : Half} {kind : Kind} {payload : List Byte} {c : PeFault}
    (h : payload.length ≤ 240) (hc : resyncFails s c) :
    sendFrame dst pid kind payload s =
      .ended (faulted c (hopRead (loaded (frameOnAir s dst pid kind.code payload) kind (stoodBy s)))) := by
  rw [sendFrame_eq h]
  exact setMode_tx_ended (by simp [loaded]) (resync_of_fails (resyncFails_loaded.mpr hc))

/-- Everything sending a frame that fits can do. -/
theorem sendFrame_cases {s : State} {dst pid : Half} {kind : Kind} {payload : List Byte} (h : payload.length ≤ 240) :
    (∃ f, tunable s f ∧
      sendFrame dst pid kind payload s = .run (transmitted (frameOnAir s dst pid kind.code payload) kind f s)) ∨
    ∃ c, (c = .ftabUnwritten ∨ c = .frfOverflow) ∧ sendFrame dst pid kind payload s =
      .ended (faulted c (hopRead (loaded (frameOnAir s dst pid kind.code payload) kind (stoodBy s)))) := by
  rcases resync_cases (loaded (frameOnAir s dst pid kind.code payload) kind (stoodBy s)) with ⟨f, hf, -⟩ | ⟨c, hc, -, hr⟩
  · exact .inl ⟨f, tunable_loaded.mp hf, sendFrame_of_tunable h (tunable_loaded.mp hf)⟩
  · exact .inr ⟨c, hc, by rw [sendFrame_eq h]; exact setMode_tx_ended (by simp [loaded]) hr⟩

/-- A payload that does not fit stops the model. -/
theorem sendFrame_oversize {s : State} {dst pid : Half} {kind : Kind} {payload : List Byte} (h : 240 < payload.length) :
    sendFrame dst pid kind payload s = .broken .oversizeFrame := by
  have h' : payload.length > Config.maxPayload := h
  simp only [sendFrame, setMode_standby, Flow.andThen_run, transmitFrame, encodeFrame, if_pos h']

end Sys2Proof.Machine
end

