-- ==== Sys2Proof/Laws/Engine.lean ====
section
/-! SUPPORT. What the Protocol Engine's shared operations do, each said once. -/

namespace Sys2Proof.Machine

open Sys2Proof.Claims

/-! ### Acceptance (R87, R115) -/

/-- The two Boolean checks say what `idleForHost` says. -/
theorem sending_of_idle {s : State} (h : idleForHost s) : s.sending = false ∧ s.inFlight = false := by
  obtain ⟨h1, h2, h3⟩ := h
  simp only [State.sending, State.inFlight, h1, h2]
  simpa using h3

theorem hostSetMode_idle {s : State} {m : RadioMode} (h : idleForHost s) (hm : m ≠ .tx) :
    hostSetMode m s = setMode m s := by
  simp [hostSetMode, sending_of_idle h, hm]

/-- R87's refusals. -/
theorem hostSetMode_refused {s : State} {m : RadioMode} (h : ¬idleForHost s ∨ m = .tx) :
    hostSetMode m s = .ended (faulted .callerError s) := by
  unfold hostSetMode
  split; · rfl
  split; · rfl
  rename_i h1 h2
  rcases h with h | h
  · exfalso; apply h
    simp only [State.sending, State.inFlight, Bool.or_eq_true, decide_eq_true_eq, not_or] at h1 h2
    exact ⟨h1.1, h1.2, fun hc => h2 (by simp [hc.1, hc.2])⟩
  · rw [if_pos h]; rfl

theorem sendCheck_accepted {s : State} (h : sendAccepted s) : sendCheck s = .run s := by
  simp [sendCheck, sending_of_idle h.1, h.2]

theorem sendCheck_refused {s : State} (h : ¬sendAccepted s) : sendCheck s = .ended (faulted .callerError s) := by
  unfold sendCheck
  split; · rfl
  split; · rfl
  split; · rfl
  rename_i h1 h2 h3
  exfalso; apply h
  simp only [State.sending, State.inFlight, Bool.or_eq_true, decide_eq_true_eq, not_or, ne_eq, not_not] at h1 h2 h3
  exact ⟨⟨h1.1, h1.2, fun hc => h3 (by simp [hc.1, hc.2])⟩, h2⟩

theorem checkSize_fits {s : State} (k : State → Flow) (h : s.plenReg.toNat ≤ 240) : checkSize k s = k s := by
  have : ¬s.plenReg.toNat > Config.maxPayload := Nat.not_lt.mpr h
  simp only [checkSize, if_neg this]

theorem checkSize_oversize {s : State} (k : State → Flow) (h : 240 < s.plenReg.toNat) :
    checkSize k s = .run { s with result := .payloadTooLarge } := by
  have : s.plenReg.toNat > Config.maxPayload := h
  simp only [checkSize, if_pos this]

/-! ### The payload and the packet_id -/

theorem sendPayload_eq (s : State) : sendPayload s = payloadOf s := by simp [sendPayload, payloadOf, payloadRead]

theorem payloadOf_length (s : State) : (payloadOf s).length = s.plenReg.toNat := by simp [payloadOf]

/-- draw_pid never answers 0 (R10). -/
theorem nextPid_ne_zero (s : State) : nextPid s ≠ 0#16 := by
  intro h
  have := congrArg BitVec.toNat h
  simp [nextPid] at this
  have hlt := (Config.freeDraw s.draws).isLt
  omega

/-! ### Sends and attempts (R113, R114, R116) -/

theorem tunable_congr {s t : State} {f : BitVec 32} (hc : t.cfg = s.cfg) (hr : t.radio = s.radio) :
    tunable t f ↔ tunable s f := by
  simp [tunable, tableEntry, hopSlot, hc, hr, steps_congr hc]

theorem resyncFails_congr {s t : State} {c : PeFault} (hc : t.cfg = s.cfg) (hr : t.radio = s.radio) :
    resyncFails t c ↔ resyncFails s c := by
  simp [resyncFails, tableEntry, hopSlot, hc, hr, steps_congr hc]

theorem resumeFails_congr {s t : State} {c : PeFault} (hm : t.mode = s.mode) (hc : t.cfg = s.cfg) (hr : t.radio = s.radio) :
    resumeFails t c ↔ resumeFails s c := by
  simp only [resumeFails, hm, resyncFails_congr hc hr]

theorem resumable_congr {s t : State} {f : BitVec 32} (hm : t.mode = s.mode) (hc : t.cfg = s.cfg) (hr : t.radio = s.radio) :
    resumable t f ↔ resumable s f := by
  simp only [resumable, hm, tunable_congr hc hr]

theorem startAttempt_run {s : State} {f : BitVec 32} (h : s.reqPayload.length ≤ 240) (hf : tunable s f) :
    startAttempt s = .run
      { transmitted (frameOnAir s s.reqDst s.outPid 0#16 s.reqPayload) .req f { s with attempt := s.attempt + 1#8 } with
        eng := .awTx
        timerArmed := true } := by
  have he := sendFrame_of_tunable (s := { s with attempt := s.attempt + 1#8 }) (dst := s.reqDst) (pid := s.outPid)
    (kind := .req) h ((tunable_congr rfl rfl).mpr hf)
  simp only [startAttempt, he, Flow.andThen_run]
  rfl

/-- An attempt that meets a resync fault. -/
theorem startAttempt_fails {s : State} {c : PeFault} (h : s.reqPayload.length ≤ 240) (hc : resyncFails s c) :
    startAttempt s = .ended (faulted c (hopRead (loaded (frameOnAir s s.reqDst s.outPid 0#16 s.reqPayload) .req
      (stoodBy { s with attempt := s.attempt + 1#8 })))) := by
  have he := sendFrame_of_fails (s := { s with attempt := s.attempt + 1#8 }) (dst := s.reqDst) (pid := s.outPid)
    (kind := .req) h ((resyncFails_congr rfl rfl).mpr hc)
  simp only [startAttempt, he, Flow.andThen_ended]
  rfl

/-- Everything an attempt can do. -/
theorem startAttempt_cases {s : State} (h : s.reqPayload.length ≤ 240) :
    (∃ f, tunable s f ∧ startAttempt s = .run
      { transmitted (frameOnAir s s.reqDst s.outPid 0#16 s.reqPayload) .req f { s with attempt := s.attempt + 1#8 } with
        eng := .awTx
        timerArmed := true }) ∨
    ∃ c, (c = .ftabUnwritten ∨ c = .frfOverflow) ∧ startAttempt s =
      .ended (faulted c (hopRead (loaded (frameOnAir s s.reqDst s.outPid 0#16 s.reqPayload) .req
        (stoodBy { s with attempt := s.attempt + 1#8 })))) := by
  rcases sendFrame_cases (s := { s with attempt := s.attempt + 1#8 }) (dst := s.reqDst) (pid := s.outPid)
    (kind := .req) h with ⟨f, hf, -⟩ | ⟨c, hc, he⟩
  · exact .inl ⟨f, (tunable_congr rfl rfl).mp hf, startAttempt_run h ((tunable_congr rfl rfl).mp hf)⟩
  · exact .inr ⟨c, hc, by simp only [startAttempt, he, Flow.andThen_ended]; rfl⟩

theorem sendOnce_run {s : State} {kind : Kind} {f : BitVec 32} (hp : s.plenReg.toNat ≤ 240) (hf : tunable s f) :
    sendOnce kind s = .run
      { transmitted (frameOnAir s s.destReg (hostPid s) kind.code (payloadOf s)) kind f
          { takeHostPid s with opKind := some kind } with
        eng := .awTx
        result := .sent } := by
  have hc : (takeHostPid s).cfg = s.cfg := by simp
  have hr : (takeHostPid s).radio = s.radio := by simp
  have he := sendFrame_of_tunable (s := { takeHostPid s with opKind := some kind }) (dst := s.destReg) (pid := hostPid s)
    (kind := kind) (payload := payloadOf s) (by rw [payloadOf_length]; exact hp) ((tunable_congr hc hr).mpr hf)
  unfold sendOnce
  rw [sendPayload_eq, he]
  simp only [frameOnAir, hc]
  rfl

/-- A send that does not wait and meets a resync fault. -/
theorem sendOnce_fails {s : State} {kind : Kind} {c : PeFault} (hp : s.plenReg.toNat ≤ 240) (hf : resyncFails s c) :
    sendOnce kind s = .ended (faulted c (hopRead
      (loaded (frameOnAir s s.destReg (hostPid s) kind.code (payloadOf s)) kind
        (stoodBy { takeHostPid s with opKind := some kind })))) := by
  have hc : (takeHostPid s).cfg = s.cfg := by simp
  have hr : (takeHostPid s).radio = s.radio := by simp
  have he := sendFrame_of_fails (s := { takeHostPid s with opKind := some kind }) (dst := s.destReg) (pid := hostPid s)
    (kind := kind) (payload := payloadOf s) (by rw [payloadOf_length]; exact hp) ((resyncFails_congr hc hr).mpr hf)
  unfold sendOnce
  rw [sendPayload_eq, he]
  simp only [frameOnAir, hc]
  rfl

/-- Everything a send that does not wait can do. -/
theorem sendOnce_cases {s : State} {kind : Kind} (hp : s.plenReg.toNat ≤ 240) :
    (∃ f, tunable s f ∧ sendOnce kind s = .run
      { transmitted (frameOnAir s s.destReg (hostPid s) kind.code (payloadOf s)) kind f
          { takeHostPid s with opKind := some kind } with
        eng := .awTx
        result := .sent }) ∨
    ∃ c, (c = .ftabUnwritten ∨ c = .frfOverflow) ∧ sendOnce kind s =
      .ended (faulted c (hopRead (loaded (frameOnAir s s.destReg (hostPid s) kind.code (payloadOf s)) kind
        (stoodBy { takeHostPid s with opKind := some kind })))) := by
  have hc : (takeHostPid s).cfg = s.cfg := by simp
  have hr : (takeHostPid s).radio = s.radio := by simp
  rcases sendFrame_cases (s := { takeHostPid s with opKind := some kind }) (dst := s.destReg) (pid := hostPid s)
    (kind := kind) (payload := payloadOf s) (by rw [payloadOf_length]; exact hp) with ⟨f, hf, -⟩ | ⟨c, hc', he⟩
  · have hf' := (tunable_congr hc hr).mp hf
    exact .inl ⟨f, hf', sendOnce_run hp hf'⟩
  · refine .inr ⟨c, hc', ?_⟩
    unfold sendOnce
    rw [sendPayload_eq, he]
    simp only [frameOnAir, hc]
    rfl

/-! ### Handlers (R120, R121, R101, R128) -/

theorem advanceEng_eq (k : Option Kind) (target : Eng) (s : State) :
    advanceEng k target s = { s with eng := if s.eng = .awTx ∧ s.opKind = k then target else s.eng } := by
  unfold advanceEng; split <;> rfl

theorem requestTxRecord_eq (s : State) :
    requestTxRecord s =
      { s with evq := if s.cfg.txcOnRequest = true then s.evq ++ [⟨.transmitComplete, [], 0#8, 0#16⟩] else s.evq } := by
  unfold requestTxRecord; split <;> rfl

theorem finishTransmit_eq (s : State) :
    finishTransmit s = { s with
      avail := true
      evq := s.evq ++ [⟨.transmitComplete, [], 0#8, 0#16⟩]
      eng := if s.eng = .awTx ∧ s.opKind = s.curKind then .done else s.eng } := by
  rw [finishTransmit, advanceEng_eq]; rfl

theorem readLinkQuality_eq (s : State) : readLinkQuality s = measured s := by
  simp [readLinkQuality, measured, radioRead, record, radioValue]

theorem deliveredRecord_eq (t : EvType) (payload : List Byte) (s : State) :
    deliveredRecord t payload s = delivered t payload s := by
  simp [deliveredRecord, delivered, linkQualityOf, snrQ, rawRssi, radioValue]

theorem settleRequest_eq (s : State) :
    settleRequest s =
      if s.opKind = some .req ∧ (s.eng = .awTx ∨ s.eng = .awAck) then
        { s with eng := .done, result := .success, timerArmed := false }
      else s := by
  simp only [settleRequest, State.sending, Bool.or_eq_true, decide_eq_true_eq]

/-! ### Received frames (R99) -/

theorem decodeFrame_eq_none {o : HdrOrder} {frame : List Byte} : decodeFrame o frame = none ↔ frame.length < 8 := by
  unfold decodeFrame
  split
  · simp
  · rename_i h
    simp only [true_iff]
    by_contra hc
    rcases frame with _ | ⟨a, _ | ⟨b, _ | ⟨c, _ | ⟨d, _ | ⟨e, _ | ⟨f, _ | ⟨g, _ | ⟨k, r⟩⟩⟩⟩⟩⟩⟩⟩ <;> simp at hc
    exact h _ _ _ _ _ _ _ _ _ rfl

theorem decodeFrame_eq_some {o : HdrOrder} {frame : List Byte} {p : Packet} (h : decodeFrame o frame = some p) :
    8 ≤ frame.length ∧ p.payload = frame.drop 8 ∧ p.src = getHalf o (frame.getD 0 0#8) (frame.getD 1 0#8) ∧
      p.dst = getHalf o (frame.getD 2 0#8) (frame.getD 3 0#8) ∧ p.pid = getHalf o (frame.getD 4 0#8) (frame.getD 5 0#8) ∧
      p.kind = getHalf o (frame.getD 6 0#8) (frame.getD 7 0#8) := by
  unfold decodeFrame at h
  split at h
  · injection h with h; subst h; simp
  · simp at h

end Sys2Proof.Machine
end

