-- ==== Sys2Proof/Laws/Exec.lean ====
section
/-! SUPPORT. Everything each operation can answer, for the operations with more than one outcome: one disjunction for each,
whose disjuncts name the state they end in. -/

namespace Sys2Proof.Machine

open Sys2Proof.Claims

/-- The two faults resync raises. -/
abbrev IsResyncFault (c : PeFault) : Prop := c = .ftabUnwritten ∨ c = .frfOverflow

/-- A host mode command. -/
theorem hostSetMode_cases (m : RadioMode) (s : State) :
    hostSetMode m s = .ended (faulted .callerError s) ∨
      idleForHost s ∧ m ≠ .tx ∧ (hostSetMode m s = .run s ∨ hostSetMode m s = .run (stoodBy s) ∨
        (∃ code, hostSetMode m s = .run (modeWritten m code s) ∧ code = m.code) ∨
        (∃ f, tunable s f ∧ s.mode ≠ some .rxc ∧ m = .rxc ∧ hostSetMode m s = .run (enteredRxc f s)) ∨
        ∃ c, IsResyncFault c ∧ hostSetMode m s = .ended (faulted c (hopRead s))) := by
  by_cases h : idleForHost s ∧ m ≠ .tx
  · refine .inr ⟨h.1, h.2, ?_⟩
    rw [hostSetMode_idle h.1 h.2]
    by_cases hs : s.mode = some m
    · exact .inl (setMode_same hs)
    cases m with
    | tx => exact absurd rfl h.2
    | sleep => exact .inr (.inr (.inl ⟨_, setMode_sleep hs, rfl⟩))
    | standby => exact .inr (.inl (setMode_standby s))
    | rxs => exact .inr (.inr (.inl ⟨_, setMode_rxs hs, rfl⟩))
    | cad => exact .inr (.inr (.inl ⟨_, setMode_cad hs, rfl⟩))
    | rxc =>
      rcases resync_cases s with ⟨f, hf, -⟩ | ⟨c, hc, -, hr⟩
      · exact .inr (.inr (.inr (.inl ⟨f, hf, hs, rfl, setMode_rxc hs hf⟩)))
      · exact .inr (.inr (.inr (.inr ⟨c, hc, setMode_rxc_ended hs hr⟩)))
  · refine .inl (hostSetMode_refused ?_)
    by_cases h' : idleForHost s
    · exact .inr (by by_contra hm; exact h ⟨h', hm⟩)
    · exact .inl h'

/-- SEND.REQ. -/
theorem execSendReq_cases (s : State) :
    ¬sendAccepted s ∧ execSendReq s = .next (faulted .callerError s) ∨
    sendAccepted s ∧ 240 < s.plenReg.toNat ∧ execSendReq s = .next { s with result := .payloadTooLarge } ∨
    sendAccepted s ∧ s.plenReg.toNat ≤ 240 ∧
      (s.retryReg = 0#8 ∧ execSendReq s = .next (logged .requestTimedOut 0
          { s with
            reqDst := s.destReg
            reqPayload := payloadOf s
            retry := 0#8
            timeout := s.timeoutReg
            attempt := 0#8
            opKind := some .req
            avail := true
            eng := .done
            result := .timedOut }) ∨
        s.retryReg ≠ 0#8 ∧
          ((∃ f, tunable s f ∧ execSendReq s = .next
              { transmitted (frameOnAir s s.destReg (nextPid s) 0#16 (payloadOf s)) .req f (requestCopied (nextPid s) s) with
                eng := .awTx
                timerArmed := true }) ∨
            ∃ c, IsResyncFault c ∧ execSendReq s = .next (faulted c (hopRead
              (loaded (frameOnAir s s.destReg (nextPid s) 0#16 (payloadOf s)) .req
                (stoodBy (requestCopied (nextPid s) s))))))) := by
  by_cases h : sendAccepted s
  swap
  · exact .inl ⟨h, by rw [execSendReq, sendCheck_refused h]; rfl⟩
  by_cases hp : 240 < s.plenReg.toNat
  · exact .inr (.inl ⟨h, hp, by rw [execSendReq, sendCheck_accepted h, Flow.andThen_run, checkSize_oversize _ hp]; rfl⟩)
  have hp' : s.plenReg.toNat ≤ 240 := by omega
  refine .inr (.inr ⟨h, hp', ?_⟩)
  have e : execSendReq s = (acceptRequest (copyRequest s)).outcome := by
    rw [execSendReq, sendCheck_accepted h, Flow.andThen_run, checkSize_fits _ hp']
  by_cases hr : s.retryReg = 0#8
  · refine .inl ⟨hr, ?_⟩
    simp only [e, acceptRequest, copyRequest, hr, if_pos, sendPayload_eq]
    rfl
  · refine .inr ⟨hr, ?_⟩
    have e2 : acceptRequest (copyRequest s) =
        startAttempt { requestCopied (nextPid s) s with attempt := 0#8 } := by
      simp only [acceptRequest, copyRequest, if_neg hr, sendPayload_eq, beginRequest, requestCopied, takeDraw, nextPid]
    have hl : (payloadOf s).length ≤ 240 := by rw [payloadOf_length]; exact hp'
    rcases startAttempt_cases (s := { requestCopied (nextPid s) s with attempt := 0#8 }) hl with ⟨f, hf, he⟩ | ⟨c, hc, he⟩
    · exact .inl ⟨f, (tunable_congr rfl rfl).mp hf, by rw [e, e2, he]; rfl⟩
    · exact .inr ⟨c, hc, by rw [e, e2, he]; rfl⟩

/-- SEND.ACK and SEND.BCAST. -/
theorem sendOnce_outcome_cases (kind : Kind) (s : State) :
    let r := ((sendCheck s).andThen (checkSize (sendOnce kind))).outcome
    ¬sendAccepted s ∧ r = .next (faulted .callerError s) ∨
    sendAccepted s ∧ 240 < s.plenReg.toNat ∧ r = .next { s with result := .payloadTooLarge } ∨
    sendAccepted s ∧ s.plenReg.toNat ≤ 240 ∧
      ((∃ f, tunable s f ∧ r = .next
          { transmitted (frameOnAir s s.destReg (hostPid s) kind.code (payloadOf s)) kind f
              { takeHostPid s with opKind := some kind } with
            eng := .awTx
            result := .sent }) ∨
        ∃ c, IsResyncFault c ∧ r = .next (faulted c (hopRead
          (loaded (frameOnAir s s.destReg (hostPid s) kind.code (payloadOf s)) kind
            (stoodBy { takeHostPid s with opKind := some kind }))))) := by
  intro r
  by_cases h : sendAccepted s
  swap
  · exact .inl ⟨h, by simp only [r, sendCheck_refused h]; rfl⟩
  by_cases hp : 240 < s.plenReg.toNat
  · exact .inr (.inl ⟨h, hp, by simp only [r, sendCheck_accepted h, Flow.andThen_run, checkSize_oversize _ hp]; rfl⟩)
  have hp' : s.plenReg.toNat ≤ 240 := by omega
  refine .inr (.inr ⟨h, hp', ?_⟩)
  have e : r = (sendOnce kind s).outcome := by
    simp only [r, sendCheck_accepted h, Flow.andThen_run, checkSize_fits _ hp']
  rcases sendOnce_cases (kind := kind) hp' with ⟨f, hf, he⟩ | ⟨c, hc, he⟩
  · exact .inl ⟨f, hf, by rw [e, he]; rfl⟩
  · exact .inr ⟨c, hc, by rw [e, he]; rfl⟩

/-- The handlers that end in `rx_resume()`. -/
theorem rxResume_cases (s : State) :
    (∃ f, resumable s f ∧ (rxResume s).outcome = .next (resumed f s)) ∨
      ∃ c, IsResyncFault c ∧ (rxResume s).outcome = .next (faulted c (hopRead s)) := by
  rcases setMode_rxc_cases s with ⟨f, hf, he⟩ | ⟨c, hc, he⟩
  · exact .inl ⟨f, hf, by rw [rxResume, he]; rfl⟩
  · exact .inr ⟨c, hc, by rw [rxResume, he]; rfl⟩

/-- TXDONE.REQ. -/
theorem execTxdoneReq_cases (s : State) :
    (∃ f, resumable s f ∧ execTxdoneReq s = .next
      { resumed f s with
        evq := if s.cfg.txcOnRequest = true then s.evq ++ [⟨.transmitComplete, [], 0#8, 0#16⟩] else s.evq
        eng := if s.eng = .awTx ∧ s.opKind = some .req then .awAck else s.eng }) ∨
      ∃ c, IsResyncFault c ∧ execTxdoneReq s = .next (faulted c (hopRead s)) := by
  rcases setMode_rxc_cases s with ⟨f, hf, he⟩ | ⟨c, hc, he⟩
  · refine .inl ⟨f, hf, ?_⟩
    simp only [execTxdoneReq, he, Flow.andThen_run, Flow.outcome_run]
    rw [advanceEng_eq, requestTxRecord_eq]
    simp only [resumed_cfg, resumed_evq, resumed_eng, resumed_opKind]
  · exact .inr ⟨c, hc, by simp only [execTxdoneReq, he]; rfl⟩

/-- RX.REQ. -/
theorem execRxReq_cases (s : State) :
    (∃ s', (s' = s ∨ s' = logged .malformedShort s.radio.rxFrame.length s) ∧ execRxReq s = (rxResume s').outcome) ∨
    ∃ p, decodeFrame s.cfg.hdrOrder s.radio.rxFrame = some p ∧ p.dst = s.cfg.nodeId ∧
      ((∃ f, tunable s f ∧ execRxReq s = .next
          (queued (delivered .requestReceived p.payload s)
            (transmitted (frameOnAir s p.src p.pid 1#16 []) .ack f (measured s)))) ∨
        ∃ c, IsResyncFault c ∧ execRxReq s = .next (faulted c (hopRead
          (loaded (frameOnAir s p.src p.pid 1#16 []) .ack (stoodBy (measured s)))))) := by
  rcases hd : decodeFrame s.cfg.hdrOrder s.radio.rxFrame with _ | p
  · exact .inl ⟨_, .inr rfl, by simp only [execRxReq, withPacket, hd]; rfl⟩
  by_cases hp : p.dst = s.cfg.nodeId
  · refine .inr ⟨p, rfl, hp, ?_⟩
    rcases sendFrame_cases (s := measured s) (dst := p.src) (pid := p.pid) (kind := .ack) (payload := []) (by simp)
      with ⟨f, hf, he⟩ | ⟨c, hc, he⟩
    · refine .inl ⟨f, (tunable_congr rfl rfl).mp hf, ?_⟩
      simp only [execRxReq, withPacket, hd, receiveRequest, hp, if_true, answerRequest, readLinkQuality_eq, he,
        Flow.andThen_run, Flow.outcome_run, deliveredRecord_eq]
      rfl
    · refine .inr ⟨c, hc, ?_⟩
      simp only [execRxReq, withPacket, hd, receiveRequest, hp, if_true, answerRequest, readLinkQuality_eq, he,
        Flow.andThen_ended, Flow.outcome_ended]
      rfl
  · exact .inl ⟨s, .inl rfl, by simp only [execRxReq, withPacket, hd, receiveRequest, if_neg hp]⟩

/-- RX.ACK. -/
theorem execRxAck_cases (s : State) :
    (∃ s', (s' = s ∨ s' = logged .malformedShort s.radio.rxFrame.length s) ∧ execRxAck s = (rxResume s').outcome) ∨
    ∃ p, decodeFrame s.cfg.hdrOrder s.radio.rxFrame = some p ∧ p.pid = s.outPid ∧ execRxAck s = .next
      (if s.opKind = some .req ∧ (s.eng = .awTx ∨ s.eng = .awAck) then
        { stoodBy { s with outPid := 0#16 } with avail := true, eng := .done, result := .success, timerArmed := false }
      else { stoodBy { s with outPid := 0#16 } with avail := true }) := by
  rcases hd : decodeFrame s.cfg.hdrOrder s.radio.rxFrame with _ | p
  · exact .inl ⟨_, .inr rfl, by simp only [execRxAck, withPacket, hd]; rfl⟩
  by_cases hp : p.pid = s.outPid
  · refine .inr ⟨p, rfl, hp, ?_⟩
    simp only [execRxAck, withPacket, hd, receiveAck, if_pos hp, setMode_standby, Flow.andThen_run, Flow.outcome_run,
      settleRequest_eq, stoodBy_opKind, stoodBy_eng]
  · exact .inl ⟨s, .inl rfl, by simp only [execRxAck, withPacket, hd, receiveAck, if_neg hp]⟩

/-- RX.BCAST. -/
theorem execRxBcast_cases (s : State) :
    execRxBcast s = (rxResume (logged .malformedShort s.radio.rxFrame.length s)).outcome ∨
    ∃ p, decodeFrame s.cfg.hdrOrder s.radio.rxFrame = some p ∧ execRxBcast s =
      (rxResume (queued (delivered .broadcastReceived p.payload s) (measured s))).outcome := by
  rcases hd : decodeFrame s.cfg.hdrOrder s.radio.rxFrame with _ | p
  · exact .inl (by simp only [execRxBcast, withPacket, hd]; rfl)
  · exact .inr ⟨p, rfl, by simp only [execRxBcast, withPacket, hd, receiveBroadcast, readLinkQuality_eq, deliveredRecord_eq]; rfl⟩

/-- TIMER.RETRY. -/
theorem execTimerRetry_cases {s : State} (h : s.reqPayload.length ≤ 240) :
    (∃ f, tunable s f ∧ execTimerRetry s = .next
      { transmitted (frameOnAir s s.reqDst s.outPid 0#16 s.reqPayload) .req f { s with attempt := s.attempt + 1#8 } with
        eng := .awTx
        timerArmed := true }) ∨
    ∃ c, IsResyncFault c ∧ execTimerRetry s =
      .next (faulted c (hopRead (loaded (frameOnAir s s.reqDst s.outPid 0#16 s.reqPayload) .req
        (stoodBy { s with attempt := s.attempt + 1#8 })))) := by
  rcases startAttempt_cases h with ⟨f, hf, he⟩ | ⟨c, hc, he⟩
  · exact .inl ⟨f, hf, by rw [execTimerRetry, he]; rfl⟩
  · exact .inr ⟨c, hc, by rw [execTimerRetry, he]; rfl⟩

/-- A payload that does not fit stops an attempt. -/
theorem execTimerRetry_oversize {s : State} (h : 240 < s.reqPayload.length) : execTimerRetry s = .fault .oversizeFrame := by
  rw [execTimerRetry, startAttempt, sendFrame_oversize h]; rfl

/-- IRQ.HOP. -/
theorem execIrqHop_cases (snap : Byte) (s : State) :
    execIrqHop snap s = .next { s with snap := snap } ∨
    (∃ f, tunable s f ∧ execIrqHop snap s = .next (tuned f { s with snap := snap })) ∨
    ∃ c, IsResyncFault c ∧ execIrqHop snap s = .next (faulted c (hopRead { s with snap := snap })) := by
  unfold execIrqHop
  split
  · rcases resync_cases { s with snap := snap } with ⟨f, hf, he⟩ | ⟨c, hc, -, he⟩
    · exact .inr (.inl ⟨f, (tunable_congr rfl rfl).mp hf, by rw [he]; rfl⟩)
    · exact .inr (.inr ⟨c, hc, by rw [he]; rfl⟩)
  · exact .inl rfl

/-- IRQ.TXDONE runs one of the four transmit-complete operations. -/
theorem execIrqTxdone_cases (snap : Byte) (s : State) :
    (s.curKind = some .req ∧ execIrqTxdone snap s = execTxdoneReq { s with snap := snap }) ∨
    ((s.curKind = some .ack ∨ s.curKind = some .bcast) ∧
      execIrqTxdone snap s = .next (finishTransmit { s with snap := snap })) ∨
    (s.curKind = none ∧ execIrqTxdone snap s = .next (logged .spuriousTxdone snap.toNat { s with snap := snap })) := by
  rcases h : s.curKind with _ | _ | _ | _
  · exact .inr (.inr ⟨rfl, by simp only [execIrqTxdone, txdoneHandler, h]; rfl⟩)
  · exact .inl ⟨rfl, by simp only [execIrqTxdone, txdoneHandler, h]⟩
  · exact .inr (.inl ⟨.inl rfl, by simp only [execIrqTxdone, txdoneHandler, h]; rfl⟩)
  · exact .inr (.inl ⟨.inr rfl, by simp only [execIrqTxdone, txdoneHandler, h]; rfl⟩)

/-- The state IRQ.RXDONE hands to a handler once the frame is read. -/
def frameRead (snap : Byte) (s : State) : State := fifoRead { s with snap := snap }

/-- IRQ.RXDONE runs one of the six received-frame operations. -/
theorem execIrqRxdone_cases (snap : Byte) (s : State) :
    (snap.getLsbD s.cfg.irqBits.crc = true ∧ execIrqRxdone snap s = execRxCrcerr { s with snap := snap }) ∨
    snap.getLsbD s.cfg.irqBits.crc = false ∧
      (s.radio.rxFrame.length < 8 ∧ execIrqRxdone snap s = execRxShort (frameRead snap s) ∨
      ∃ p, decodeFrame s.cfg.hdrOrder s.radio.rxFrame = some p ∧
        (p.kind = 0#16 ∧ execIrqRxdone snap s = execRxReq (frameRead snap s) ∨
          p.kind = 1#16 ∧ execIrqRxdone snap s = execRxAck (frameRead snap s) ∨
          p.kind = 2#16 ∧ execIrqRxdone snap s = execRxBcast (frameRead snap s) ∨
          3 ≤ p.kind.toNat ∧ execIrqRxdone snap s = execRxUnsupported p.kind (frameRead snap s))) := by
  by_cases hc : snap.getLsbD s.cfg.irqBits.crc = true
  · exact .inl ⟨hc, by simp only [execIrqRxdone, rxHandler, hc, if_true]⟩
  have hc' : snap.getLsbD s.cfg.irqBits.crc = false := by simpa using hc
  refine .inr ⟨hc', ?_⟩
  have e : execIrqRxdone snap s = frameHandler (frameRead snap s) := by
    simp only [execIrqRxdone, rxHandler, hc', frameRead]; rfl
  rcases hd : decodeFrame s.cfg.hdrOrder s.radio.rxFrame with _ | p
  · have hd' : decodeFrame (frameRead snap s).cfg.hdrOrder (frameRead snap s).radio.rxFrame = none := hd
    exact .inl ⟨decodeFrame_eq_none.mp hd, by rw [e, frameHandler, hd']⟩
  · have hd' : decodeFrame (frameRead snap s).cfg.hdrOrder (frameRead snap s).radio.rxFrame = some p := hd
    refine .inr ⟨p, rfl, ?_⟩
    by_cases h0 : p.kind = 0#16
    · exact .inl ⟨h0, by simp only [e, frameHandler, hd', h0, if_true]⟩
    by_cases h1 : p.kind = 1#16
    · exact .inr (.inl ⟨h1, by simp [e, frameHandler, hd', h1]⟩)
    by_cases h2 : p.kind = 2#16
    · exact .inr (.inr (.inl ⟨h2, by simp [e, frameHandler, hd', h2]⟩))
    refine .inr (.inr (.inr ⟨?_, by simp only [e, frameHandler, hd', h0, h1, h2, if_false]⟩))
    by_contra h3
    have n0 : p.kind.toNat ≠ 0 := fun h => h0 (BitVec.eq_of_toNat_eq h)
    have n1 : p.kind.toNat ≠ 1 := fun h => h1 (BitVec.eq_of_toNat_eq h)
    have n2 : p.kind.toNat ≠ 2 := fun h => h2 (BitVec.eq_of_toNat_eq h)
    omega

end Sys2Proof.Machine
end

