-- ==== Sys2Proof/Laws/Memory.lean ====
section
/-! SUPPORT. The laws of the byte storage: what a read answers after a write, and that every write keeps the canonical form. -/

namespace Sys2Proof.Machine

@[simp] theorem Memory.read_nil (a : Nat) : Memory.read [] a = Memory.unlisted := rfl

theorem Memory.read_cons (k : Nat) (v : Byte) (m : Memory) (a : Nat) :
    Memory.read ((k, v) :: m) a = if k = a then v else Memory.read m a := rfl

/-- An offset below every listed one reads as an unlisted byte. -/
theorem Memory.read_of_lt {m : Memory} {a : Nat} (h : ∀ c ∈ m, a < c.1) : Memory.read m a = Memory.unlisted := by
  induction m with
  | nil => rfl
  | cons c m ih =>
    obtain ⟨k, v⟩ := c
    have hk := h (k, v) (by simp)
    rw [Memory.read_cons, if_neg (by simp at hk; omega), ih fun c hc => h c (by simp [hc])]

/-- A write leaves every other offset alone. -/
theorem Memory.read_write_other (m : Memory) {a a' : Nat} (b : Byte) (h : a' ≠ a) :
    Memory.read (Memory.write m a b) a' = Memory.read m a' := by
  induction m with
  | nil =>
    unfold Memory.write
    split
    · rfl
    · rw [Memory.read_cons, if_neg (fun e => h e.symm)]
  | cons c m ih =>
    obtain ⟨k, v⟩ := c
    unfold Memory.write
    split
    · split
      · rfl
      · rw [Memory.read_cons, if_neg (fun e => h e.symm)]
    · split
      · rename_i hk; subst hk
        split <;> simp [Memory.read_cons, Ne.symm h]
      · simp [Memory.read_cons, ih]

/-- A read after a write to the same offset answers the value written. -/
theorem Memory.read_write_same {m : Memory} (a : Nat) (b : Byte) (h : Memory.wf m) :
    Memory.read (Memory.write m a b) a = b := by
  obtain ⟨hs, hv⟩ := h
  induction m with
  | nil =>
    unfold Memory.write
    split <;> simp_all [Memory.read_cons]
  | cons c m ih =>
    obtain ⟨k, v⟩ := c
    have hs' := List.pairwise_cons.mp hs
    have below : a < k → ∀ c ∈ (k, v) :: m, a < c.1 := by
      intro hk c hc
      rcases List.mem_cons.mp hc with rfl | hc
      · exact hk
      · have := hs'.1 c hc; simp at this; omega
    have after : a = k → ∀ c ∈ m, a < c.1 := by
      intro hk c hc
      have := hs'.1 c hc; simp at this; omega
    unfold Memory.write
    split
    · rename_i hk
      split
      · rename_i hb; rw [Memory.read_of_lt (below hk), hb]
      · simp [Memory.read_cons]
    · split
      · rename_i hk
        split
        · rename_i hb; rw [Memory.read_of_lt (after hk), hb]
        · simp [Memory.read_cons]
      · rename_i hk
        rw [Memory.read_cons, if_neg (fun e => hk e.symm)]
        exact ih hs'.2 (fun c hc => hv c (by simp [hc]))

/-- Every entry after a write is the written one or an old one. -/
theorem Memory.mem_write {m : Memory} {a : Nat} {b : Byte} {c : Host.Cell} (h : c ∈ Memory.write m a b) :
    c = (a, b) ∧ b ≠ Memory.unlisted ∨ c ∈ m := by
  induction m with
  | nil =>
    unfold Memory.write at h
    split at h <;> simp_all
  | cons d m ih =>
    obtain ⟨k, v⟩ := d
    unfold Memory.write at h
    split at h
    · split at h
      · exact .inr h
      · rcases List.mem_cons.mp h with rfl | h
        · exact .inl ⟨rfl, by assumption⟩
        · exact .inr h
    · split at h
      · split at h
        · exact .inr (by simp [h])
        · rcases List.mem_cons.mp h with rfl | h
          · exact .inl ⟨rfl, by assumption⟩
          · exact .inr (by simp [h])
      · rcases List.mem_cons.mp h with rfl | h
        · exact .inr (by simp)
        · rcases ih h with h | h
          · exact .inl h
          · exact .inr (by simp [h])

/-- A write to a byte of PAYLOAD keeps the canonical form. -/
theorem Memory.write_wf {m : Memory} {a : Nat} (b : Byte) (h : Memory.wf m) (hlo : Memory.base ≤ a)
    (hhi : a < Memory.limit) : Memory.wf (Memory.write m a b) := by
  refine ⟨?_, fun c hc => ?_⟩
  · obtain ⟨hs, -⟩ := h
    induction m with
    | nil => unfold Memory.write; split <;> simp
    | cons d m ih =>
      obtain ⟨k, v⟩ := d
      have hs' := List.pairwise_cons.mp hs
      unfold Memory.write
      split
      · rename_i hk
        split
        · exact hs
        · refine List.pairwise_cons.mpr ⟨fun c hc => ?_, hs⟩
          rcases List.mem_cons.mp hc with rfl | hc
          · exact hk
          · have := hs'.1 c hc; simp at this ⊢; omega
      · split
        · rename_i hk; subst hk
          split
          · exact hs'.2
          · exact List.pairwise_cons.mpr ⟨hs'.1, hs'.2⟩
        · refine List.pairwise_cons.mpr ⟨fun c hc => ?_, ih hs'.2⟩
          rcases Memory.mem_write hc with ⟨rfl, -⟩ | hc
          · simp; omega
          · exact hs'.1 c hc
  · rcases Memory.mem_write hc with ⟨rfl, hb⟩ | hc
    · exact ⟨hb, hlo, hhi⟩
    · exact h.2 c hc

/-- The memory after reset has the canonical form. -/
theorem State.reset_memory_wf : Memory.wf State.reset.mem := ⟨List.Pairwise.nil, by simp [State.reset, State.pristine]⟩

end Sys2Proof.Machine
end

