-- ==== Sys2Proof/Machine/RadioRegs.lean ====
section
/-! DEFINITION. The radio registers by name (60_exceptions.md R192, 20_memory.md R44), and the register-level accesses behind
each event of the trace: one for a RadioRead or RadioWrite, the sequences of R45 and R46 for a whole-frame FIFO access. -/

namespace Sys2Proof.Machine

/-- The radio register names of R192. -/
inductive RadioReg where
  | fifo
  | opMode
  | frfMsb
  | frfMid
  | frfLsb
  | fifoAddrPtr
  | fifoTxBaseAddr
  | fifoRxBaseAddr
  | fifoRxCurrentAddr
  | irqFlags
  | rxNbBytes
  | pktSnrValue
  | pktRssiValue
  | hopChannel
  | payloadLength
  | dioMapping1
deriving DecidableEq, Repr

/-- The address of a radio register (R192, informative). -/
def RadioReg.address : RadioReg → Byte
  | .fifo => 0x00#8
  | .opMode => 0x01#8
  | .frfMsb => 0x06#8
  | .frfMid => 0x07#8
  | .frfLsb => 0x08#8
  | .fifoAddrPtr => 0x0D#8
  | .fifoTxBaseAddr => 0x0E#8
  | .fifoRxBaseAddr => 0x0F#8
  | .fifoRxCurrentAddr => 0x10#8
  | .irqFlags => 0x12#8
  | .rxNbBytes => 0x13#8
  | .pktSnrValue => 0x19#8
  | .pktRssiValue => 0x1A#8
  | .hopChannel => 0x1C#8
  | .payloadLength => 0x22#8
  | .dioMapping1 => 0x40#8

/-- How the PE uses a register, the "access by the PE" column of R192. -/
structure RegUse where
  /-- By RadioRead. -/
  read        : Bool
  /-- By RadioWrite. -/
  write       : Bool
  /-- Inside FifoWrite. -/
  inFifoWrite : Bool
  /-- Inside FifoRead. -/
  inFifoRead  : Bool
deriving DecidableEq, Repr

/-- The column, row by row (R192). The two base addresses are set at boot only. -/
def RadioReg.use : RadioReg → RegUse
  | .fifo => ⟨false, false, true, true⟩
  | .opMode => ⟨false, true, false, false⟩
  | .frfMsb => ⟨false, true, false, false⟩
  | .frfMid => ⟨false, true, false, false⟩
  | .frfLsb => ⟨false, true, false, false⟩
  | .fifoAddrPtr => ⟨false, false, true, true⟩
  | .fifoTxBaseAddr => ⟨false, false, false, false⟩
  | .fifoRxBaseAddr => ⟨false, false, false, false⟩
  | .fifoRxCurrentAddr => ⟨false, false, false, true⟩
  | .irqFlags => ⟨true, true, false, false⟩
  | .rxNbBytes => ⟨false, false, false, true⟩
  | .pktSnrValue => ⟨true, false, false, false⟩
  | .pktRssiValue => ⟨true, false, false, false⟩
  | .hopChannel => ⟨true, false, false, false⟩
  | .payloadLength => ⟨false, false, true, false⟩
  | .dioMapping1 => ⟨false, true, false, false⟩

/-- The register a RadioRead names. -/
def ReadReg.reg : ReadReg → RadioReg
  | .irqFlags => .irqFlags
  | .hopChannel => .hopChannel
  | .pktSnrValue => .pktSnrValue
  | .pktRssiValue => .pktRssiValue

/-- The register a RadioWrite names. -/
def WriteReg.reg : WriteReg → RadioReg
  | .opMode => .opMode
  | .frfMsb => .frfMsb
  | .frfMid => .frfMid
  | .frfLsb => .frfLsb
  | .irqFlags => .irqFlags
  | .dioMapping1 => .dioMapping1

/-- One access to one radio register. The value is `none` where it is a FIFO address, which the abstract radio state of R38
does not hold (notes/assumptions/30.md). -/
structure RegAccess where
  reg     : RadioReg
  isWrite : Bool
  value   : Option Byte
deriving DecidableEq, Repr

/-- The register-level accesses of one trace event. FifoWrite sets the pointer, writes the bytes in transmission order and
writes the length (R45). FifoRead reads the count, sets the pointer to the current receive address and reads the bytes
(R46). -/
def Access.registers : Access → List RegAccess
  | .read r v => [⟨r.reg, false, some v⟩]
  | .write r v => [⟨r.reg, true, some v⟩]
  | .fifoWrite frame =>
    ⟨.fifoAddrPtr, true, none⟩ :: frame.map (fun byte => ⟨.fifo, true, some byte⟩)
      ++ [⟨.payloadLength, true, some (BitVec.ofNat 8 frame.length)⟩]
  | .fifoRead frame =>
    ⟨.rxNbBytes, false, some (BitVec.ofNat 8 frame.length)⟩ :: ⟨.fifoRxCurrentAddr, false, none⟩
      :: ⟨.fifoAddrPtr, true, none⟩ :: frame.map (fun byte => ⟨.fifo, false, some byte⟩)

/-- The trace at register level. -/
def State.registerTrace (s : State) : List RegAccess :=
  s.trace.flatMap Access.registers

end Sys2Proof.Machine
end

