-- ==== Sys2Proof/Laws/Radio.lean ====
section
/-! SUPPORT. The interrupt lines and the radio's events: which bit a line shows, when it rises, and what one event leaves. -/

namespace Sys2Proof.Machine

open Sys2Proof.Claims

/-- Line 0 shows RxDone or TxDone, by bits [7:6] of the mapping. -/
theorem lineLevel_line0 (b : IrqBits) (dio irq : BitVec 8) :
    lineLevel b .line0 dio irq =
      if dio.toNat / 64 = 0 then irq.getLsbD b.rxDone else if dio.toNat / 64 = 1 then irq.getLsbD b.txDone else false := by
  have h : ∀ d : BitVec 8, (d.extractLsb' 6 2 = 0b00#2 ↔ d.toNat / 64 = 0) ∧ (d.extractLsb' 6 2 = 0b01#2 ↔ d.toNat / 64 = 1) := by
    decide
  simp only [lineLevel, h]

/-- Line 1 shows FhssChangeChannel, by bits [5:4] of the mapping. -/
theorem lineLevel_line1 (b : IrqBits) (dio irq : BitVec 8) :
    lineLevel b .line1 dio irq = if dio.toNat / 16 % 4 = 1 then irq.getLsbD b.hop else false := by
  have h : ∀ d : BitVec 8, (d.extractLsb' 4 2 = 0b01#2 ↔ d.toNat / 16 % 4 = 1) := by decide
  simp only [lineLevel, h]

theorem mayRise_line0 (b : IrqBits) (before after : BitVec 8) :
    mayRise b .line0 before after =
      ((!before.getLsbD b.rxDone && after.getLsbD b.rxDone) || (!before.getLsbD b.txDone && after.getLsbD b.txDone)) := rfl

theorem mayRise_line1 (b : IrqBits) (before after : BitVec 8) :
    mayRise b .line1 before after = (!before.getLsbD b.hop && after.getLsbD b.hop) := rfl

/-- Once line 0 is routed, a line rises exactly when its level goes from 0 to 1. -/
theorem risesOnEvent_routed {s : State} (h : s.route.line0 ≠ .unknown) (l : Line) (r : RadioState) (free : Bool) :
    risesOnEvent l r free s =
      (!lineLevel s.cfg.irqBits l s.radio.dio s.radio.irq && lineLevel s.cfg.irqBits l r.dio r.irq) := by
  simp [risesOnEvent, State.unrouted, h]

theorem risesOnRemap_routed {s : State} (h : s.route.line0 ≠ .unknown) (l : Line) (v : Byte) :
    risesOnRemap l v s =
      (lineLevel s.cfg.irqBits l v s.radio.irq && !lineLevel s.cfg.irqBits l s.radio.dio s.radio.irq) := by
  simp [risesOnRemap, State.unrouted, h]

/-- At the first routing write after a reset, a line rises exactly when the new mapping shows a set flag (R196). -/
theorem risesOnRemap_unrouted {s : State} (h : s.route = ⟨.unknown, .unknown⟩) (l : Line) (v : Byte) :
    risesOnRemap l v s = lineLevel s.cfg.irqBits l v s.radio.irq := by
  simp [risesOnRemap, State.unrouted, h]

/-- The flag test of the statements is the bit of the byte. -/
theorem flagSet_eq (byte : Byte) (bit : Fin 8) : flagSet byte bit = byte.getLsbD bit := by
  unfold flagSet
  rw [← BitVec.testBit_toNat, Nat.testBit_eq_decide_div_mod_eq]

/-- The one-bit byte of the statements is the model's. -/
theorem oneBit_eq (bit : Fin 8) : oneBit bit = IrqBits.mask bit := by
  revert bit; decide

/-- Which bit a mask sets. -/
theorem getLsbD_mask (i j : Fin 8) : (IrqBits.mask i).getLsbD j = decide (i = j) := by
  revert i j; decide

/-- Where every flag has a bit of its own, RADIO.FLAG leaves the three routed flags alone. -/
theorem getLsbD_flag {b : IrqBits} (h : b.distinct) (irq : Byte) (f : RadioFlag) :
    (irq ||| f.mask).getLsbD b.rxDone = irq.getLsbD b.rxDone ∧ (irq ||| f.mask).getLsbD b.txDone = irq.getLsbD b.txDone ∧
      (irq ||| f.mask).getLsbD b.hop = irq.getLsbD b.hop := by
  have m7 : RadioFlag.rxTimeout.mask = IrqBits.mask 7 := by decide
  have m2 : RadioFlag.cadDone.mask = IrqBits.mask 2 := by decide
  have m0 : RadioFlag.cadDetected.mask = IrqBits.mask 0 := by decide
  simp only [IrqBits.distinct, List.nodup_cons, List.mem_cons, not_or] at h
  cases f <;> simp only [m7, m2, m0, BitVec.getLsbD_or, getLsbD_mask] <;> simp [*, Ne.symm, eq_comm]

/-- RADIO.FLAG raises no line, where every flag has a bit of its own. -/
theorem risesOnEvent_flag {s : State} (h : s.cfg.irqBits.distinct) (l : Line) (f : RadioFlag) (free : Bool) :
    risesOnEvent l { s.radio with irq := s.radio.irq ||| f.mask } free s = false := by
  obtain ⟨h6, h3, h1⟩ := getLsbD_flag h s.radio.irq f
  cases l
  · simp only [risesOnEvent, mayRise_line0, lineLevel_line0, h6, h3]
    split
    · simp
    · exact Bool.not_and_self _
  · simp only [risesOnEvent, mayRise_line1, lineLevel_line1, h1]
    split
    · simp
    · exact Bool.not_and_self _

/-! ### The register-level view of the trace (R192) -/

/-- Every register a trace event touches is one R192 lets that kind of access touch. -/
theorem registers_permitted (a : Access) : ∀ x ∈ a.registers,
    match a with
    | .read _ _ => x.reg.use.read = true
    | .write _ _ => x.reg.use.write = true
    | .fifoWrite _ => x.reg.use.inFifoWrite = true
    | .fifoRead _ => x.reg.use.inFifoRead = true := by
  intro x hx
  cases a with
  | read r v => simp only [Access.registers, List.mem_singleton] at hx; subst hx; cases r <;> rfl
  | write r v => simp only [Access.registers, List.mem_singleton] at hx; subst hx; cases r <;> rfl
  | fifoWrite frame =>
    simp only [Access.registers, List.cons_append, List.mem_cons, List.mem_append, List.mem_map, List.not_mem_nil, or_false] at hx
    rcases hx with rfl | ⟨byte, -, rfl⟩ | rfl <;> rfl
  | fifoRead frame =>
    simp only [Access.registers, List.mem_cons, List.mem_map] at hx
    rcases hx with rfl | rfl | rfl | ⟨byte, -, rfl⟩ <;> rfl

end Sys2Proof.Machine
end

