-- ==== Sys2Proof/Laws/Step.lean ====
section
/-! SUPPORT. Everything one step can be: an input that selects an operation, PE reset, or an input that leaves the PE's own
fields alone. -/

namespace Sys2Proof.Machine

open Sys2Proof.Claims

/-- The step on its next input. -/
theorem step_cons {s : State} {e : Event} {rest : List Event} (h : s.script = e :: rest) :
    step s = runFetched (fetch e { s with script := rest }) := by
  simp only [step, h]

/-- With no input the machine stays as it is. -/
theorem step_nil {s : State} (h : s.script = []) : step s = .next s := by
  simp only [step, h]

/-- The entry of a dispatch step. -/
theorem enterDispatch_eq (l : Line) (s : State) : enterDispatch l s = dispatched l s := by
  cases l <;> simp [enterDispatch, consumeEdge, radioRead, radioValue, radioWrite, applyWrite, record, dispatched]

/-- What a host access, a radio event or an input that is not enabled leaves alone, and the few ways it changes the rest. -/
structure Untouched (s t : State) : Prop where
  cfg        : t.cfg = s.cfg
  eng        : t.eng = s.eng
  mode       : t.mode = s.mode
  route      : t.route = s.route
  avail      : t.avail = s.avail
  outPid     : t.outPid = s.outPid
  curKind    : t.curKind = s.curKind
  opKind     : t.opKind = s.opKind
  reqDst     : t.reqDst = s.reqDst
  reqPayload : t.reqPayload = s.reqPayload
  retry      : t.retry = s.retry
  timeout    : t.timeout = s.timeout
  attempt    : t.attempt = s.attempt
  timerArmed : t.timerArmed = s.timerArmed
  hopIdx     : t.hopIdx = s.hopIdx
  evq        : t.evq = s.evq
  log        : t.log = s.log
  result     : t.result = s.result
  trace      : t.trace = s.trace
  script     : t.script = s.script
  snap       : t.snap = s.snap
  draws      : t.draws = s.draws
  fault      : t.fault = s.fault ∨ s.fault = .clear ∧ t.fault ≠ .clear
  mem        : t.mem = s.mem ∨ ∃ i v, i ≤ 254 ∧ t.mem = Memory.write s.mem (0x200 + i) v
  radio      : t.radio = s.radio ∨ (s.radio.transmitting = true ∧ t.radio = s.radio.txDone s.cfg.irqBits) ∨
    (∃ frame crcErr snr rssi, s.radio.receiving = true ∧ frame.length ≤ 255 ∧
      t.radio = s.radio.rxDone s.cfg.irqBits frame crcErr snr rssi) ∨
    (∃ ch, t.radio = { s.radio with hopCh := ch, irq := s.radio.irq ||| IrqBits.mask s.cfg.irqBits.hop }) ∨
    ∃ f : RadioFlag, t.radio = { s.radio with irq := s.radio.irq ||| f.mask }

theorem Untouched.refl (s : State) : Untouched s s := by constructor <;> first | rfl | exact .inl rfl

theorem Untouched.recordFault (c : PeFault) (h : c ≠ .clear) (s : State) : Untouched s (recordFault c s) := by
  constructor <;> first | rfl | exact .inl rfl | skip
  by_cases hf : s.fault = .clear
  · exact .inr ⟨hf, by simp [Machine.recordFault, hf, h]⟩
  · exact .inl (by simp [Machine.recordFault, hf])

theorem Untouched.radioEvent {s : State} {r : RadioState}
    (h : r = s.radio ∨ (s.radio.transmitting = true ∧ r = s.radio.txDone s.cfg.irqBits) ∨
      (∃ frame crcErr snr rssi, s.radio.receiving = true ∧ frame.length ≤ 255 ∧ r = s.radio.rxDone s.cfg.irqBits frame crcErr snr rssi) ∨
      (∃ ch, r = { s.radio with hopCh := ch, irq := s.radio.irq ||| IrqBits.mask s.cfg.irqBits.hop }) ∨
      ∃ f : RadioFlag, r = { s.radio with irq := s.radio.irq ||| f.mask }) :
    Untouched s (radioEvent r s) := by
  constructor <;> first | rfl | exact .inl rfl | exact h

/-- The payload registers end at PAYLOAD[254]. -/
theorem accessed_payload {w : Width} {o : BitVec 10} {i : Nat} (h : accessed w o = some (.payload i)) : i ≤ 254 := by
  have all : ∀ o : BitVec 10, (match hostRegAt o with | some (.payload i) => decide (i ≤ 254) | _ => true) = true := by
    decide +kernel
  have ho := all o
  unfold accessed at h
  generalize hostRegAt o = x at h ho
  cases x with
  | none => cases h
  | some r =>
    simp only at h
    split at h
    · injection h with h; subst h; simpa using ho
    · cases h

theorem Untouched.fetchWrite {w : Width} {o : BitVec 10} {v : Half} {s : State} :
    (∃ t, fetchWrite w o v s = .done t ∧ Untouched s t) ∨
      ∃ r, hostWriteTarget w o v s = .operation r ∧ fetchWrite w o v s = fetchOperation r o v s := by
  unfold Machine.fetchWrite
  rcases ht : hostWriteTarget w o v s with r | t | _
  · exact .inr ⟨r, rfl, rfl⟩
  · refine .inl ⟨t, rfl, ?_⟩
    unfold hostWriteTarget at ht
    split at ht
    · rename_i r hr
      cases r <;> simp only [writeRegister, WriteTarget.stored.injEq, reduceCtorEq] at ht
      all_goals subst ht; constructor <;> first | rfl | exact .inl rfl | skip
      rename_i i
      exact .inr ⟨i, _, accessed_payload hr, rfl⟩
    · cases ht
  · exact .inl ⟨_, rfl, Untouched.recordFault .hostAccess (by decide) s⟩

/-- The write that selects an operation is the 16-bit one to CMD or the 8-bit one to EVQ_POP. -/
theorem hostWriteTarget_operation {w : Width} {o : BitVec 10} {v : Half} {s : State} {r : HostReg}
    (h : hostWriteTarget w o v s = .operation r) :
    (w = .half ∧ o = 0x000#10 ∧ r = .cmd) ∨ (w = .byte ∧ o = 0x012#10 ∧ r = .evqPop) := by
  have all : ∀ (o : BitVec 10),
      (accessed .byte o = some .evqPop → o = 0x012#10) ∧ accessed .byte o ≠ some .cmd ∧
      (accessed .half o = some .cmd → o = 0x000#10) ∧ accessed .half o ≠ some .evqPop := by decide +kernel
  unfold hostWriteTarget at h
  split at h
  · rename_i r' hr
    cases r' <;> simp only [writeRegister, WriteTarget.operation.injEq, reduceCtorEq] at h
    all_goals subst h; cases w
    · exact absurd hr (all o).2.1
    · exact .inl ⟨rfl, (all o).2.2.1 hr, rfl⟩
    · exact .inr ⟨rfl, (all o).1 hr, rfl⟩
    · exact absurd hr (all o).2.2.2
  · cases h

/-- Everything an input can come to. -/
theorem fetch_cases (e : Event) (s : State) :
    (e = .peReset ∧ fetch e s = .done (peReset s)) ∨
    (e ≠ .peReset ∧ ∃ t, fetch e s = .done t ∧ Untouched s t) ∨
    (s.fault = .clear ∧ ∃ i,
      (∃ w, e = .write16 0x000#10 w ∧ decode s.cfg.irqBits (.cmd w) = .ok i ∧ fetch e s = .operation i s) ∨
      (∃ v, e = .write8 0x012#10 v ∧ i = .evqPop ∧ fetch e s = .operation i s) ∨
      (∃ l, e = .dispatch l ∧ s.edge l = true ∧ s.evq.length < s.cfg.qdepth ∧ i = decodeIrq s.cfg.irqBits s.radio.irq ∧
        fetch e s = .operation i (dispatched l s)) ∨
      (e = .timerExpire ∧ s.timerArmed = true ∧
        i = (if s.retry.toNat ≤ s.attempt.toNat then .timerFinal else .timerRetry) ∧ fetch e s = .operation i s)) := by
  cases e with
  | peReset => exact .inl ⟨rfl, rfl⟩
  | write16 o w =>
    refine .inr ?_
    rcases Untouched.fetchWrite (w := .half) (o := o) (v := w) (s := s) with ⟨t, ht, hu⟩ | ⟨r, hr, he⟩
    · exact .inl ⟨by simp, t, ht, hu⟩
    rcases hostWriteTarget_operation hr with ⟨-, rfl, rfl⟩ | ⟨h, -⟩
    swap
    · cases h
    have e1 : fetch (.write16 0x000#10 w) s = fetchOperation .cmd 0x000#10 w s := he
    by_cases hf : s.fault = .clear
    · rcases hd : decode s.cfg.irqBits (.cmd w) with err | i
      · exact .inl ⟨by simp, _, by simp [e1, fetchOperation, hf, select, hd], Untouched.recordFault .reservedCommand (by decide) s⟩
      · exact .inr ⟨hf, i, .inl ⟨w, rfl, hd, by simp [e1, fetchOperation, hf, select, hd]⟩⟩
    · exact .inl ⟨by simp, s, by simp [e1, fetchOperation, hf], Untouched.refl s⟩
  | write8 o v =>
    refine .inr ?_
    rcases Untouched.fetchWrite (w := .byte) (o := o) (v := v.setWidth 16) (s := s) with ⟨t, ht, hu⟩ | ⟨r, hr, he⟩
    · exact .inl ⟨by simp, t, ht, hu⟩
    rcases hostWriteTarget_operation hr with ⟨h, -⟩ | ⟨-, rfl, rfl⟩
    · cases h
    have e1 : fetch (.write8 0x012#10 v) s = fetchOperation .evqPop 0x012#10 (v.setWidth 16) s := he
    by_cases hf : s.fault = .clear
    · exact .inr ⟨hf, .evqPop, .inr (.inl ⟨v, rfl, rfl, by simp [e1, fetchOperation, hf, select, decode, decodeHostReg]⟩)⟩
    · exact .inl ⟨by simp, s, by simp [e1, fetchOperation, hf], Untouched.refl s⟩
  | read8 o =>
    refine .inr (.inl ⟨by simp, _, rfl, ?_⟩)
    unfold hostRead
    split
    · constructor <;> first | rfl | exact .inl rfl
    · have h := Untouched.recordFault .hostAccess (by decide) s
      exact { h with }
  | read16 o =>
    refine .inr (.inl ⟨by simp, _, rfl, ?_⟩)
    unfold hostRead
    split
    · constructor <;> first | rfl | exact .inl rfl
    · have h := Untouched.recordFault .hostAccess (by decide) s
      exact { h with }
  | dispatch l =>
    refine .inr ?_
    by_cases h : dispatchEnabled l s = true
    · have h' := h
      simp only [dispatchEnabled, Bool.and_eq_true, decide_eq_true_eq] at h'
      refine .inr ⟨h'.1.2, _, .inr (.inr (.inl ⟨l, rfl, h'.1.1, h'.2, rfl, ?_⟩))⟩
      show fetchDispatch l s = _
      unfold fetchDispatch
      rw [if_pos h, enterDispatch_eq]; rfl
    · exact .inl ⟨by simp, s, by show fetchDispatch l s = _; unfold fetchDispatch; rw [if_neg h], Untouched.refl s⟩
  | timerExpire =>
    refine .inr ?_
    by_cases h : timerEnabled s = true
    · have h' := h
      simp only [timerEnabled, Bool.and_eq_true, decide_eq_true_eq] at h'
      refine .inr ⟨h'.2, _, .inr (.inr (.inr ⟨rfl, h'.1, rfl, ?_⟩))⟩
      show fetchExpiry s = _
      unfold fetchExpiry
      rw [if_pos h]
      by_cases hf : s.retry.toNat ≤ s.attempt.toNat
      · simp [select, decode, decodeTimer, timerSelector, hf]
      · simp [select, decode, decodeTimer, timerSelector, hf]
    · exact .inl ⟨by simp, s, by show fetchExpiry s = _; unfold fetchExpiry; rw [if_neg h], Untouched.refl s⟩
  | radioTxDone =>
    refine .inr (.inl ⟨by simp, _, rfl, ?_⟩)
    unfold radioTxDone
    split
    · rename_i h; exact Untouched.radioEvent (.inr (.inl ⟨h, rfl⟩))
    · exact Untouched.refl s
  | radioRxDone frame crcErr snr rssi =>
    refine .inr (.inl ⟨by simp, _, rfl, ?_⟩)
    unfold radioRxDone
    split
    · rename_i h
      simp only [Bool.and_eq_true, decide_eq_true_eq] at h
      exact Untouched.radioEvent (.inr (.inr (.inl ⟨frame, crcErr, snr, rssi, h.1, h.2, rfl⟩)))
    · exact Untouched.refl s
  | radioHop ch =>
    refine .inr (.inl ⟨by simp, _, rfl, ?_⟩)
    unfold radioHop
    split
    · exact Untouched.radioEvent (.inr (.inr (.inr (.inl ⟨ch, rfl⟩))))
    · exact Untouched.refl s
  | radioFlag f =>
    refine .inr (.inl ⟨by simp, _, rfl, ?_⟩)
    exact Untouched.radioEvent (.inr (.inr (.inr (.inr ⟨f, rfl⟩))))

/-- Everything a step that answers a next state can be: nothing left to do, PE reset, an input that leaves the PE's own
fields alone, or an operation executed in the state its input leaves. -/
theorem step_cases {s t : State} (h : step s = .next t) :
    (s.script = [] ∧ t = s) ∨ ∃ e rest, s.script = e :: rest ∧
      ((e = .peReset ∧ t = peReset { s with script := rest }) ∨
        (e ≠ .peReset ∧ Untouched { s with script := rest } t) ∨
        (s.fault = .clear ∧ ∃ i u, exec i u = .next t ∧
          ((∃ w, e = .write16 0x000#10 w ∧ decode s.cfg.irqBits (.cmd w) = .ok i ∧ u = { s with script := rest }) ∨
            (∃ v, e = .write8 0x012#10 v ∧ i = .evqPop ∧ u = { s with script := rest }) ∨
            (∃ l, e = .dispatch l ∧ s.edge l = true ∧ s.evq.length < s.cfg.qdepth ∧ i = decodeIrq s.cfg.irqBits s.radio.irq ∧
              u = dispatched l { s with script := rest }) ∨
            (e = .timerExpire ∧ s.timerArmed = true ∧
              i = (if s.retry.toNat ≤ s.attempt.toNat then .timerFinal else .timerRetry) ∧
              u = { s with script := rest })))) := by
  cases hs : s.script with
  | nil => rw [step_nil hs] at h; injection h with h; exact .inl ⟨rfl, h.symm⟩
  | cons e rest =>
    refine .inr ⟨e, rest, rfl, ?_⟩
    rw [step_cons hs] at h
    rcases fetch_cases e { s with script := rest } with ⟨he, hf⟩ | ⟨he, u, hf, hu⟩ | ⟨hc, i, hi⟩
    · rw [hf] at h; injection h with h; exact .inl ⟨he, h.symm⟩
    · rw [hf] at h; injection h with h; subst h; exact .inr (.inl ⟨he, hu⟩)
    · refine .inr (.inr ⟨hc, i, ?_⟩)
      rcases hi with ⟨w, h1, h2, hf⟩ | ⟨v, h1, h2, hf⟩ | ⟨l, h1, h2, h3, h4, hf⟩ | ⟨h1, h2, h3, hf⟩ <;> rw [hf] at h
      · exact ⟨_, h, .inl ⟨w, h1, h2, rfl⟩⟩
      · exact ⟨_, h, .inr (.inl ⟨v, h1, h2, rfl⟩)⟩
      · exact ⟨_, h, .inr (.inr (.inl ⟨l, h1, by cases l <;> exact h2, h3, h4, rfl⟩))⟩
      · exact ⟨_, h, .inr (.inr (.inr ⟨h1, h2, h3, rfl⟩))⟩

/-- A step of a quiescent node is no PE step (R186): nothing left to do, PE reset, or an input that leaves the PE's own fields
alone. -/
theorem step_of_quiescent {s t : State} (hq : s.quiescent = true) (h : step s = .next t) :
    (s.script = [] ∧ t = s) ∨ ∃ e rest, s.script = e :: rest ∧ e.isHostWrite = false ∧
      ((e = .peReset ∧ t = peReset { s with script := rest }) ∨ (e ≠ .peReset ∧ Untouched { s with script := rest } t)) := by
  simp only [State.quiescent, Bool.and_eq_true, Bool.not_eq_true', List.any_eq_false] at hq
  obtain ⟨⟨⟨h0, h1⟩, ht⟩, hw⟩ := hq
  rcases step_cases h with hn | ⟨e, rest, hs, h⟩
  · exact .inl hn
  have he : e.isHostWrite = false := by simpa using hw e (by rw [hs]; exact List.mem_cons_self)
  refine .inr ⟨e, rest, hs, he, ?_⟩
  rcases h with h | h | ⟨hf, i, u, -, h⟩
  · exact .inl h
  · exact .inr h
  rcases h with ⟨w, rfl, -⟩ | ⟨v, rfl, -⟩ | ⟨l, -, hl, hr, -⟩ | ⟨-, ha, -⟩
  · cases he
  · cases he
  · cases l
    · simp [dispatchEnabled, hl, hf, hr] at h0
    · simp [dispatchEnabled, hl, hf, hr] at h1
  · simp [timerEnabled, ha, hf] at ht

end Sys2Proof.Machine
end

