-- ==== Sys2Proof/Laws/Outcomes.lean ====
section
/-! SUPPORT. Every next state an operation can answer, as one inductive list: a property of all operations is proved by one case
analysis over it. -/

namespace Sys2Proof.Machine

open Sys2Proof.Claims

/-- The operations of the IRQ format, which run another operation. -/
def isIrq : Instr → Bool
  | .irqTxdone _ => true
  | .irqRxdone _ => true
  | .irqHop _ => true
  | .irqNone _ => true
  | _ => false

/-- The states from which a handler resumes listening. -/
inductive BeforeResume : Instr → State → State → Prop where
  | logged (i : Instr) (s : State) (c : LogCode) (n : Nat)
      (h : (∃ low, i = .rxCrcerr low) ∨ (∃ low, i = .rxShort low) ∨ (∃ k, i = .rxUnsupported k) ∨ i ∈ [.rxReq, .rxAck, .rxBcast]) :
      BeforeResume i s (Claims.logged c n s)
  | ignored (i : Instr) (s : State) (p : Packet) (h : i = .rxReq ∨ i = .rxAck)
      (hd : decodeFrame s.cfg.hdrOrder s.radio.rxFrame = some p) : BeforeResume i s s
  | broadcast (s : State) (p : Packet) (hd : decodeFrame s.cfg.hdrOrder s.radio.rxFrame = some p) :
      BeforeResume .rxBcast s (queued (delivered .broadcastReceived p.payload s) (measured s))

/-- Every next state of an operation that is not of the IRQ format. -/
inductive Outcome : Instr → State → State → Prop where
  | refused (i : Instr) (s : State) (h : i ∈ sendCommands ∨ ∃ m, (i, m) ∈ modeCommands) : Outcome i s (faulted .callerError s)
  | tooLarge (i : Instr) (s : State) (h : i ∈ sendCommands) (ha : sendAccepted s) (hp : 240 < s.plenReg.toNat) :
      Outcome i s { s with result := .payloadTooLarge }
  | abandoned (s : State) (ha : sendAccepted s) (hp : s.plenReg.toNat ≤ 240) (hr : s.retryReg = 0#8) :
      Outcome .sendReq s (logged .requestTimedOut 0
        { s with
          reqDst := s.destReg
          reqPayload := payloadOf s
          retry := 0#8
          timeout := s.timeoutReg
          attempt := 0#8
          opKind := some .req
          avail := true
          eng := .done
          result := .timedOut })
  | requested (s : State) (f : BitVec 32) (ha : sendAccepted s) (hp : s.plenReg.toNat ≤ 240) (hr : s.retryReg ≠ 0#8)
      (hf : tunable s f) :
      Outcome .sendReq s
        { transmitted (frameOnAir s s.destReg (nextPid s) 0#16 (payloadOf s)) .req f (requestCopied (nextPid s) s) with
          eng := .awTx
          timerArmed := true }
  | requestFault (s : State) (c : PeFault) (ha : sendAccepted s) (hp : s.plenReg.toNat ≤ 240) (hr : s.retryReg ≠ 0#8)
      (hc : IsResyncFault c) :
      Outcome .sendReq s (faulted c (hopRead (loaded (frameOnAir s s.destReg (nextPid s) 0#16 (payloadOf s)) .req
        (stoodBy (requestCopied (nextPid s) s)))))
  | sent (i : Instr) (s : State) (k : Kind) (f : BitVec 32) (hi : i = .sendAck ∧ k = .ack ∨ i = .sendBcast ∧ k = .bcast)
      (ha : sendAccepted s) (hp : s.plenReg.toNat ≤ 240) (hf : tunable s f) :
      Outcome i s
        { transmitted (frameOnAir s s.destReg (hostPid s) k.code (payloadOf s)) k f
            { takeHostPid s with opKind := some k } with
          eng := .awTx
          result := .sent }
  | sendFault (i : Instr) (s : State) (k : Kind) (c : PeFault) (hi : i = .sendAck ∧ k = .ack ∨ i = .sendBcast ∧ k = .bcast)
      (ha : sendAccepted s) (hp : s.plenReg.toNat ≤ 240) (hc : IsResyncFault c) :
      Outcome i s (faulted c (hopRead (loaded (frameOnAir s s.destReg (hostPid s) k.code (payloadOf s)) k
        (stoodBy { takeHostPid s with opKind := some k }))))
  | modeSame (i : Instr) (m : RadioMode) (s : State) (hi : (i, m) ∈ modeCommands) (ha : idleForHost s) : Outcome i s s
  | standby (s : State) (ha : idleForHost s) : Outcome .modeStdby s (stoodBy s)
  | modeOnly (i : Instr) (m : RadioMode) (s : State) (hi : (i, m) ∈ modeCommands) (ha : idleForHost s)
      (hm : m ≠ .tx) : Outcome i s (modeWritten m m.code s)
  | listen (s : State) (f : BitVec 32) (ha : idleForHost s) (hm : s.mode ≠ some .rxc) (hf : tunable s f) :
      Outcome .modeRxc s (enteredRxc f s)
  | listenFault (i : Instr) (m : RadioMode) (s : State) (c : PeFault) (hi : (i, m) ∈ modeCommands) (ha : idleForHost s)
      (hc : IsResyncFault c) : Outcome i s (faulted c (hopRead s))
  | popped (s : State) : Outcome .evqPop s { s with evq := s.evq.tail }
  | resumed (i : Instr) (s u : State) (f : BitVec 32) (hu : BeforeResume i s u) (hf : resumable u f) :
      Outcome i s (Claims.resumed f u)
  | resumeFault (i : Instr) (s u : State) (c : PeFault) (hu : BeforeResume i s u) (hc : IsResyncFault c) :
      Outcome i s (faulted c (hopRead u))
  | answered (s : State) (p : Packet) (f : BitVec 32) (hd : decodeFrame s.cfg.hdrOrder s.radio.rxFrame = some p)
      (hp : p.dst = s.cfg.nodeId) (hf : tunable s f) :
      Outcome .rxReq s (queued (delivered .requestReceived p.payload s)
        (transmitted (frameOnAir s p.src p.pid 1#16 []) .ack f (measured s)))
  | answerFault (s : State) (p : Packet) (c : PeFault) (hd : decodeFrame s.cfg.hdrOrder s.radio.rxFrame = some p)
      (hp : p.dst = s.cfg.nodeId) (hc : IsResyncFault c) :
      Outcome .rxReq s (faulted c (hopRead (loaded (frameOnAir s p.src p.pid 1#16 []) .ack (stoodBy (measured s)))))
  | settled (s : State) (p : Packet) (hd : decodeFrame s.cfg.hdrOrder s.radio.rxFrame = some p) (hp : p.pid = s.outPid)
      (hs : s.opKind = some .req ∧ (s.eng = .awTx ∨ s.eng = .awAck)) :
      Outcome .rxAck s { stoodBy { s with outPid := 0#16 } with avail := true, eng := .done, result := .success, timerArmed := false }
  | matchedIdle (s : State) (p : Packet) (hd : decodeFrame s.cfg.hdrOrder s.radio.rxFrame = some p) (hp : p.pid = s.outPid)
      (hs : ¬(s.opKind = some .req ∧ (s.eng = .awTx ∨ s.eng = .awAck))) :
      Outcome .rxAck s { stoodBy { s with outPid := 0#16 } with avail := true }
  | awaitAck (s : State) (f : BitVec 32) (hf : resumable s f) :
      Outcome .txdoneReq s
        { Claims.resumed f s with
          evq := if s.cfg.txcOnRequest = true then s.evq ++ [⟨.transmitComplete, [], 0#8, 0#16⟩] else s.evq
          eng := if s.eng = .awTx ∧ s.opKind = some .req then .awAck else s.eng }
  | awaitFault (s : State) (c : PeFault) (hc : IsResyncFault c) : Outcome .txdoneReq s (faulted c (hopRead s))
  | finished (i : Instr) (s : State) (hi : i = .txdoneAck ∨ i = .txdoneBcast) :
      Outcome i s
        { s with
          avail := true
          evq := s.evq ++ [⟨.transmitComplete, [], 0#8, 0#16⟩]
          eng := if s.eng = .awTx ∧ s.opKind = s.curKind then .done else s.eng }
  | spurious (low : BitVec 2) (s : State) : Outcome (.txdoneNone low) s (logged .spuriousTxdone s.snap.toNat s)
  | retried (s : State) (f : BitVec 32) (hp : s.reqPayload.length ≤ 240) (hf : tunable s f) :
      Outcome .timerRetry s
        { transmitted (frameOnAir s s.reqDst s.outPid 0#16 s.reqPayload) .req f { s with attempt := s.attempt + 1#8 } with
          eng := .awTx
          timerArmed := true }
  | retryFault (s : State) (c : PeFault) (hp : s.reqPayload.length ≤ 240) (hc : IsResyncFault c) :
      Outcome .timerRetry s (faulted c (hopRead (loaded (frameOnAir s s.reqDst s.outPid 0#16 s.reqPayload) .req
        (stoodBy { s with attempt := s.attempt + 1#8 }))))
  | timedOut (s : State) :
      Outcome .timerFinal s (logged .requestTimedOut s.attempt.toNat
        { s with outPid := 0#16, avail := true, eng := .done, result := .timedOut, timerArmed := false })

theorem rxResume_outcome {i : Instr} {s u t : State} (hu : BeforeResume i s u) (h : (rxResume u).outcome = .next t) :
    Outcome i s t := by
  rcases rxResume_cases u with ⟨f, hf, he⟩ | ⟨c, hc, he⟩ <;> rw [he] at h <;> injection h with h <;> subst h
  · exact .resumed i s u f hu hf
  · exact .resumeFault i s u c hu hc

theorem hostSetMode_outcome {i : Instr} {m : RadioMode} {s t : State} (hi : (i, m) ∈ modeCommands)
    (h : (hostSetMode m s).outcome = .next t) : Outcome i s t := by
  rcases hostSetMode_cases m s with he | ⟨ha, hm, he | he | ⟨c, he, rfl⟩ | ⟨f, hf, hr, rfl, he⟩ | ⟨c, hc, he⟩⟩ <;>
    rw [he] at h <;> injection h with h <;> subst h
  · exact .refused i s (.inr ⟨m, hi⟩)
  · exact .modeSame i m s hi ha
  · simp only [modeCommands, List.mem_cons, Prod.mk.injEq, List.not_mem_nil, or_false] at hi
    have hs : hostSetMode m s = setMode m s := hostSetMode_idle ha hm
    rcases hi with ⟨rfl, rfl⟩ | ⟨rfl, rfl⟩ | ⟨rfl, rfl⟩ | ⟨rfl, rfl⟩ | ⟨rfl, rfl⟩ | ⟨rfl, rfl⟩
    all_goals first | exact .standby s ha | exact absurd rfl hm | skip
    all_goals
      exfalso
      rw [hs] at he
      have hmode := stoodBy_mode s
    · by_cases h' : s.mode = some .sleep
      · rw [setMode_same h'] at he; injection he with he; rw [← he, h'] at hmode; cases hmode
      · rw [setMode_sleep h'] at he; injection he with he; rw [← he] at hmode; cases hmode
    · by_cases h' : s.mode = some .rxc
      · rw [setMode_same h'] at he; injection he with he; rw [← he, h'] at hmode; cases hmode
      · rcases resync_cases s with ⟨f, hf, -⟩ | ⟨c, -, -, hr⟩
        · rw [setMode_rxc h' hf] at he; injection he with he; rw [← he] at hmode; cases hmode
        · rw [setMode_rxc_ended h' hr] at he; cases he
    · by_cases h' : s.mode = some .rxs
      · rw [setMode_same h'] at he; injection he with he; rw [← he, h'] at hmode; cases hmode
      · rw [setMode_rxs h'] at he; injection he with he; rw [← he] at hmode; cases hmode
    · by_cases h' : s.mode = some .cad
      · rw [setMode_same h'] at he; injection he with he; rw [← he, h'] at hmode; cases hmode
      · rw [setMode_cad h'] at he; injection he with he; rw [← he] at hmode; cases hmode
  · exact .modeOnly i m s hi ha hm
  · simp only [modeCommands, List.mem_cons, Prod.mk.injEq, List.not_mem_nil, or_false, reduceCtorEq, and_false, and_true, false_or] at hi
    subst hi
    exact .listen s f ha hr hf
  · exact .listenFault i m s c hi ha hc

/-- Every next state of an operation that is not of the IRQ format is in the list. -/
theorem exec_outcome {i : Instr} {s t : State} (hi : isIrq i = false) (h : exec i s = .next t) : Outcome i s t := by
  cases i <;> cases hi
  all_goals simp only [exec] at h
  case sendReq =>
    rcases execSendReq_cases s with ⟨-, he⟩ | ⟨ha, hp, he⟩ | ⟨ha, hp, ⟨hr, he⟩ | ⟨hr, ⟨f, hf, he⟩ | ⟨c, hc, he⟩⟩⟩ <;>
      rw [he] at h <;> injection h with h <;> subst h
    · exact .refused _ s (.inl (by simp [sendCommands]))
    · exact .tooLarge _ s (by simp [sendCommands]) ha hp
    · exact .abandoned s ha hp hr
    · exact .requested s f ha hp hr hf
    · exact .requestFault s c ha hp hr hc
  case sendAck =>
    rcases sendOnce_outcome_cases .ack s with ⟨-, he⟩ | ⟨ha, hp, he⟩ | ⟨ha, hp, ⟨f, hf, he⟩ | ⟨c, hc, he⟩⟩ <;>
      rw [execSendAck, he] at h <;> injection h with h <;> subst h
    · exact .refused _ s (.inl (by simp [sendCommands]))
    · exact .tooLarge _ s (by simp [sendCommands]) ha hp
    · exact .sent _ s .ack f (.inl ⟨rfl, rfl⟩) ha hp hf
    · exact .sendFault _ s .ack c (.inl ⟨rfl, rfl⟩) ha hp hc
  case sendBcast =>
    rcases sendOnce_outcome_cases .bcast s with ⟨-, he⟩ | ⟨ha, hp, he⟩ | ⟨ha, hp, ⟨f, hf, he⟩ | ⟨c, hc, he⟩⟩ <;>
      rw [execSendBcast, he] at h <;> injection h with h <;> subst h
    · exact .refused _ s (.inl (by simp [sendCommands]))
    · exact .tooLarge _ s (by simp [sendCommands]) ha hp
    · exact .sent _ s .bcast f (.inr ⟨rfl, rfl⟩) ha hp hf
    · exact .sendFault _ s .bcast c (.inr ⟨rfl, rfl⟩) ha hp hc
  case modeSleep => exact hostSetMode_outcome (by simp [modeCommands]) h
  case modeStdby => exact hostSetMode_outcome (by simp [modeCommands]) h
  case modeTx => exact hostSetMode_outcome (by simp [modeCommands]) h
  case modeRxc => exact hostSetMode_outcome (by simp [modeCommands]) h
  case modeRxs => exact hostSetMode_outcome (by simp [modeCommands]) h
  case modeCad => exact hostSetMode_outcome (by simp [modeCommands]) h
  case evqPop => injection h with h; subst h; exact .popped s
  case rxCrcerr low => exact rxResume_outcome (.logged _ s .malformedCrc 0 (.inl ⟨low, rfl⟩)) h
  case rxShort low => exact rxResume_outcome (.logged _ s .malformedShort _ (.inr (.inl ⟨low, rfl⟩))) h
  case rxUnsupported k => exact rxResume_outcome (.logged _ s .unsupportedKind _ (.inr (.inr (.inl ⟨k, rfl⟩)))) h
  case rxReq =>
    rcases hd : decodeFrame s.cfg.hdrOrder s.radio.rxFrame with _ | p
    · simp only [execRxReq, withPacket, hd] at h
      exact rxResume_outcome (.logged _ s .malformedShort _ (.inr (.inr (.inr (by simp))))) h
    rcases execRxReq_cases s with ⟨v, hv, he⟩ | ⟨p', hd', hp, ⟨f, hf, he⟩ | ⟨c, hc, he⟩⟩ <;> rw [he] at h
    · rcases hv with rfl | rfl
      · exact rxResume_outcome (.ignored _ _ p (.inl rfl) hd) h
      · exact rxResume_outcome (.logged _ s .malformedShort _ (.inr (.inr (.inr (by simp))))) h
    · injection h with h; subst h; exact .answered s p' f hd' hp hf
    · injection h with h; subst h; exact .answerFault s p' c hd' hp hc
  case rxAck =>
    rcases hd : decodeFrame s.cfg.hdrOrder s.radio.rxFrame with _ | p
    · simp only [execRxAck, withPacket, hd] at h
      exact rxResume_outcome (.logged _ s .malformedShort _ (.inr (.inr (.inr (by simp))))) h
    rcases execRxAck_cases s with ⟨v, hv, he⟩ | ⟨p', hd', hp, he⟩ <;> rw [he] at h
    · rcases hv with rfl | rfl
      · exact rxResume_outcome (.ignored _ _ p (.inr rfl) hd) h
      · exact rxResume_outcome (.logged _ s .malformedShort _ (.inr (.inr (.inr (by simp))))) h
    · injection h with h; subst h
      split
      · rename_i hs; exact .settled s p' hd' hp hs
      · rename_i hs; exact .matchedIdle s p' hd' hp hs
  case rxBcast =>
    rcases execRxBcast_cases s with he | ⟨p, hd, he⟩ <;> rw [he] at h
    · exact rxResume_outcome (.logged _ s .malformedShort _ (.inr (.inr (.inr (by simp))))) h
    · exact rxResume_outcome (.broadcast s p hd) h
  case txdoneReq =>
    rcases execTxdoneReq_cases s with ⟨f, hf, he⟩ | ⟨c, hc, he⟩ <;> rw [he] at h <;> injection h with h <;> subst h
    · exact .awaitAck s f hf
    · exact .awaitFault s c hc
  case txdoneAck => rw [execTxdoneAck, finishTransmit_eq] at h; injection h with h; subst h; exact .finished _ s (.inl rfl)
  case txdoneBcast => rw [execTxdoneBcast, finishTransmit_eq] at h; injection h with h; subst h; exact .finished _ s (.inr rfl)
  case txdoneNone low => injection h with h; subst h; exact .spurious low s
  case timerRetry =>
    by_cases hl : s.reqPayload.length ≤ 240
    · rcases execTimerRetry_cases hl with ⟨f, hf, he⟩ | ⟨c, hc, he⟩ <;> rw [he] at h <;> injection h with h <;> subst h
      · exact .retried s f hl hf
      · exact .retryFault s c hl hc
    · rw [execTimerRetry_oversize (by omega)] at h; cases h
  case timerFinal => injection h with h; subst h; exact .timedOut s

/-- What an operation of the IRQ format comes to: a hop, an unrecognised snapshot, or one handler in the state its snapshot
(and, for a frame that passed the CRC check, its FIFO read) leaves. -/
inductive IrqOutcome : Instr → State → State → Prop where
  | hopIgnored (snap : Byte) (s : State) : IrqOutcome (.irqHop snap) s { s with snap := snap }
  | hopFollowed (snap : Byte) (s : State) (f : BitVec 32) (hf : tunable s f) :
      IrqOutcome (.irqHop snap) s (tuned f { s with snap := snap })
  | hopFault (snap : Byte) (s : State) (c : PeFault) (hc : IsResyncFault c) :
      IrqOutcome (.irqHop snap) s (faulted c (hopRead { s with snap := snap }))
  | unrecognised (snap : Byte) (s : State) :
      IrqOutcome (.irqNone snap) s (logged .unrecognizedIrq snap.toNat { s with snap := snap })
  | txdone (snap : Byte) (s : State) (h : Instr) (t : State)
      (hk : s.curKind = some .req ∧ h = .txdoneReq ∨ (s.curKind = some .ack ∨ s.curKind = some .bcast) ∧ h = .txdoneAck ∨
        s.curKind = none ∧ h = .txdoneNone 0#2)
      (ho : Outcome h { s with snap := snap } t) : IrqOutcome (.irqTxdone snap) s t
  | crcError (snap : Byte) (s t : State) (h5 : snap.getLsbD s.cfg.irqBits.crc = true) (ho : Outcome (.rxCrcerr 0#17) { s with snap := snap } t) :
      IrqOutcome (.irqRxdone snap) s t
  | frame (snap : Byte) (s : State) (h : Instr) (t : State) (h5 : snap.getLsbD s.cfg.irqBits.crc = false)
      (hk : h = .rxShort 0#16 ∨ ∃ p, decodeFrame s.cfg.hdrOrder s.radio.rxFrame = some p ∧
        (p.kind = 0#16 ∧ h = .rxReq ∨ p.kind = 1#16 ∧ h = .rxAck ∨ p.kind = 2#16 ∧ h = .rxBcast ∨ h = .rxUnsupported p.kind))
      (ho : Outcome h (frameRead snap s) t) : IrqOutcome (.irqRxdone snap) s t

theorem exec_irqOutcome {i : Instr} {s t : State} (hi : isIrq i = true) (h : exec i s = .next t) : IrqOutcome i s t := by
  cases i <;> cases hi
  case irqTxdone snap =>
    simp only [exec] at h
    rcases execIrqTxdone_cases snap s with ⟨hk, he⟩ | ⟨hk, he⟩ | ⟨hk, he⟩ <;> rw [he] at h
    · exact .txdone snap s .txdoneReq t (.inl ⟨hk, rfl⟩) (exec_outcome rfl h)
    · exact .txdone snap s .txdoneAck t (.inr (.inl ⟨hk, rfl⟩)) (exec_outcome rfl h)
    · exact .txdone snap s (.txdoneNone 0#2) t (.inr (.inr ⟨hk, rfl⟩)) (exec_outcome rfl h)
  case irqRxdone snap =>
    simp only [exec] at h
    rcases execIrqRxdone_cases snap s with ⟨h5, he⟩ | ⟨h5, ⟨-, he⟩ | ⟨p, hd, ⟨hk, he⟩ | ⟨hk, he⟩ | ⟨hk, he⟩ | ⟨hk, he⟩⟩⟩ <;>
      rw [he] at h
    · exact .crcError snap s t h5 (exec_outcome (i := .rxCrcerr 0#17) rfl h)
    · exact .frame snap s _ t h5 (.inl rfl) (exec_outcome (i := .rxShort 0#16) rfl h)
    · exact .frame snap s _ t h5 (.inr ⟨p, hd, .inl ⟨hk, rfl⟩⟩) (exec_outcome (i := .rxReq) rfl h)
    · exact .frame snap s _ t h5 (.inr ⟨p, hd, .inr (.inl ⟨hk, rfl⟩)⟩) (exec_outcome (i := .rxAck) rfl h)
    · exact .frame snap s _ t h5 (.inr ⟨p, hd, .inr (.inr (.inl ⟨hk, rfl⟩))⟩) (exec_outcome (i := .rxBcast) rfl h)
    · exact .frame snap s _ t h5 (.inr ⟨p, hd, .inr (.inr (.inr rfl))⟩) (exec_outcome (i := .rxUnsupported p.kind) rfl h)
  case irqHop snap =>
    simp only [exec] at h
    rcases execIrqHop_cases snap s with he | ⟨f, hf, he⟩ | ⟨c, hc, he⟩ <;> rw [he] at h <;> injection h with h <;> subst h
    · exact .hopIgnored snap s
    · exact .hopFollowed snap s f hf
    · exact .hopFault snap s c hc
  case irqNone snap => injection h with h; subst h; exact .unrecognised snap s

end Sys2Proof.Machine
end

