-- ==== Sys2Proof/Laws/PerInstr.lean ====
section
/-! SUPPORT. A family of lemmas with one lemma per operation: the selector of a well-formed operation has the width, and under
the mask the value, that its row of spec/opcode_table.json gives (R74 to R77). -/

namespace Sys2Proof.Laws.TableMatch

set_option Elab.async false

/-- The encoder agrees with the operation's row of the opcode table. -/
def Statement (i : Instr) : Prop :=
  i.wellFormed .default = true → (encode i).width = i.row.width ∧ (encode i).bits &&& i.row.mask = i.row.value

theorem sendReq : Statement .sendReq := fun _ => ⟨rfl, rfl⟩
theorem sendAck : Statement .sendAck := fun _ => ⟨rfl, rfl⟩
theorem sendBcast : Statement .sendBcast := fun _ => ⟨rfl, rfl⟩
theorem modeSleep : Statement .modeSleep := fun _ => ⟨rfl, rfl⟩
theorem modeStdby : Statement .modeStdby := fun _ => ⟨rfl, rfl⟩
theorem modeTx : Statement .modeTx := fun _ => ⟨rfl, rfl⟩
theorem modeRxc : Statement .modeRxc := fun _ => ⟨rfl, rfl⟩
theorem modeRxs : Statement .modeRxs := fun _ => ⟨rfl, rfl⟩
theorem modeCad : Statement .modeCad := fun _ => ⟨rfl, rfl⟩
theorem evqPop : Statement .evqPop := fun _ => ⟨rfl, rfl⟩

theorem irqTxdone (snap : Byte) : Statement (.irqTxdone snap) := by
  unfold Statement; revert snap; decide +kernel

theorem irqRxdone (snap : Byte) : Statement (.irqRxdone snap) := by
  unfold Statement; revert snap; decide +kernel

theorem irqHop (snap : Byte) : Statement (.irqHop snap) := by
  unfold Statement; revert snap; decide +kernel

theorem irqNone (snap : Byte) : Statement (.irqNone snap) := by
  unfold Statement; revert snap; decide +kernel

/-- The masked bits of an 18-bit selector, taken as bits. -/
theorem masked18 (x m v : BitVec 18) (h : x &&& m = v) : x.toNat &&& m.toNat = v.toNat := by
  rw [← BitVec.toNat_and, h]

theorem rxCrcerr (low : BitVec 17) : Statement (.rxCrcerr low) := fun _ => by
  have h := masked18 (0x20000#18 ||| low.setWidth 18) 0x20000#18 0x20000#18 (by ext i hi; interval_cases i <;> simp)
  exact ⟨rfl, by simpa only [encode, Selector.bits, Instr.row, BitVec.toNat_ofNat] using h⟩

theorem rxShort (low : Half) : Statement (.rxShort low) := fun _ => by
  have h := masked18 (0x10000#18 ||| low.setWidth 18) 0x30000#18 0x10000#18 (by ext i hi; interval_cases i <;> simp)
  exact ⟨rfl, by simpa only [encode, Selector.bits, Instr.row, BitVec.toNat_ofNat] using h⟩

theorem rxReq : Statement .rxReq := fun _ => ⟨rfl, rfl⟩
theorem rxAck : Statement .rxAck := fun _ => ⟨rfl, rfl⟩
theorem rxBcast : Statement .rxBcast := fun _ => ⟨rfl, rfl⟩

theorem rxUnsupported (kind : Half) : Statement (.rxUnsupported kind) := fun _ => by
  have h := masked18 (kind.setWidth 18) 0x30000#18 0x00000#18 (by ext i hi; interval_cases i <;> simp)
  exact ⟨rfl, by simpa only [encode, Selector.bits, Instr.row, BitVec.toNat_ofNat] using h⟩

theorem txdoneReq : Statement .txdoneReq := fun _ => ⟨rfl, rfl⟩
theorem txdoneAck : Statement .txdoneAck := fun _ => ⟨rfl, rfl⟩
theorem txdoneBcast : Statement .txdoneBcast := fun _ => ⟨rfl, rfl⟩

theorem txdoneNone (low : BitVec 2) : Statement (.txdoneNone low) := by
  unfold Statement; revert low; decide +kernel

theorem timerRetry : Statement .timerRetry := fun _ => ⟨rfl, rfl⟩
theorem timerFinal : Statement .timerFinal := fun _ => ⟨rfl, rfl⟩

end Sys2Proof.Laws.TableMatch
end

