-- ==== Sys2Proof/Tests/Slice0.lean ====
section
/-! SUPPORT. Tests by evaluation: well-formedness, the decoder against words written out from the spec's encodings, one or two
small steps for each operation with the results of 95_test_vectors.md, and for every statement with hypotheses a state and
operands that meet them. -/

namespace Sys2Proof.Tests

open Sys2Proof.Machine Sys2Proof.Claims

set_option Elab.async false

/-! ### Well-formedness (R75, R76, R130) -/

theorem test_txdone_needs_bit3 : (Instr.irqTxdone 0x40#8).wellFormed .default = false := by decide +kernel
theorem test_rxdone_needs_bit6 : (Instr.irqRxdone 0x02#8).wellFormed .default = false := by decide +kernel
theorem test_rxdone_yields_to_txdone : (Instr.irqRxdone 0x48#8).wellFormed .default = false := by decide +kernel
theorem test_hop_needs_bit1 : (Instr.irqHop 0x80#8).wellFormed .default = false := by decide +kernel
theorem test_hop_yields_to_rxdone : (Instr.irqHop 0x42#8).wellFormed .default = false := by decide +kernel
theorem test_none_has_no_selecting_bit : (Instr.irqNone 0x02#8).wellFormed .default = false := by decide +kernel
theorem test_unsupported_kind_is_not_bcast : (Instr.rxUnsupported 2#16).wellFormed .default = false := by decide +kernel
theorem test_unsupported_kind_3 : (Instr.rxUnsupported 3#16).wellFormed .default = true := by decide +kernel

/-! ### Decoding: one word for each constructor, its bits written out from R61, R66, R74 to R77 -/

theorem test_decode_send :
    decode .default (.cmd 0b0000000000_00_0001#16) = .ok .sendReq ∧ decode .default (.cmd 0b0000000000_01_0001#16) = .ok .sendAck ∧
      decode .default (.cmd 0b0000000000_10_0001#16) = .ok .sendBcast := by decide +kernel

theorem test_decode_set_mode :
    decode .default (.cmd 0b000000000_000_0010#16) = .ok .modeSleep ∧ decode .default (.cmd 0b000000000_001_0010#16) = .ok .modeStdby ∧
      decode .default (.cmd 0b000000000_011_0010#16) = .ok .modeTx ∧ decode .default (.cmd 0b000000000_101_0010#16) = .ok .modeRxc ∧
      decode .default (.cmd 0b000000000_110_0010#16) = .ok .modeRxs ∧ decode .default (.cmd 0b000000000_111_0010#16) = .ok .modeCad := by
  decide +kernel

/-- V-CMD-4 to V-CMD-9, V-CMD-11 to V-CMD-13, V-CMD-16. -/
theorem test_decode_reserved :
    [0x0031#16, 0x0041#16, 0x0000#16, 0x0003#16, 0xFFFF#16, 0x0101#16, 0x0022#16, 0x0042#16, 0x0082#16, 0x8012#16].all
      (fun w => decide (decode .default (.cmd w) = .error (.reservedCommand w))) = true := by decide +kernel

theorem test_decode_pop : decode .default (.hostReg 0b00_0001_0010#10) = .ok .evqPop := by decide +kernel

/-- V-IRQ-2, V-IRQ-9, V-IRQ-10, V-IRQ-16. -/
theorem test_decode_irq :
    decode .default (.irq 0b01001000#8) = .ok (.irqTxdone 0x48#8) ∧ decode .default (.irq 0b11010000#8) = .ok (.irqRxdone 0xD0#8) ∧
      decode .default (.irq 0b00000010#8) = .ok (.irqHop 0x02#8) ∧ decode .default (.irq 0b10110101#8) = .ok (.irqNone 0xB5#8) := by decide +kernel

theorem test_decode_frame :
    decode .default (.rxSel 0b1_0_0000000000000000#18) = .ok (.rxCrcerr 0#17) ∧
      decode .default (.rxSel 0b1_1_0000000000000001#18) = .ok (.rxCrcerr 0x10001#17) ∧
      decode .default (.rxSel 0b0_1_0000000000000000#18) = .ok (.rxShort 0#16) ∧
      decode .default (.rxSel 0b0_0_0000000000000000#18) = .ok .rxReq ∧ decode .default (.rxSel 0b0_0_0000000000000001#18) = .ok .rxAck ∧
      decode .default (.rxSel 0b0_0_0000000000000010#18) = .ok .rxBcast ∧
      decode .default (.rxSel 0b0_0_0000000100000000#18) = .ok (.rxUnsupported 256#16) := by decide +kernel

theorem test_decode_kind_and_timer :
    decode .default (.curKind 0b100#3) = .ok .txdoneReq ∧ decode .default (.curKind 0b101#3) = .ok .txdoneAck ∧
      decode .default (.curKind 0b110#3) = .ok .txdoneBcast ∧ decode .default (.curKind 0b000#3) = .ok (.txdoneNone 0#2) ∧
      decode .default (.curKind 0b111#3) = .error .noSuchKind ∧ decode .default (.timer 0b0#1) = .ok .timerRetry ∧
      decode .default (.timer 0b1#1) = .ok .timerFinal := by decide +kernel

/-- R65 with other bit positions: TxDone in bit 0, RxDone in bit 1, FhssChangeChannel in bit 2. -/
theorem test_decode_irq_moved :
    decode ⟨0, 1, 2, 7⟩ (.irq 0b00000001#8) = .ok (.irqTxdone 0x01#8) ∧
      decode ⟨0, 1, 2, 7⟩ (.irq 0b00000110#8) = .ok (.irqRxdone 0x06#8) ∧
      decode ⟨0, 1, 2, 7⟩ (.irq 0b00001000#8) = .ok (.irqNone 0x08#8) := by decide +kernel

/-! ### Small states -/

/-- What holds of the next state, if the outcome is one. -/
def after (o : Host.Outcome State Fault Refusal) (p : State → Bool) : Bool :=
  match o with
  | .next t => p t
  | _ => false

/-- Listening on channel 0 (95_test_vectors.md section 2.10). -/
def listening : State :=
  { State.reset with
    mode := some .rxc
    avail := false
    route := ⟨.rxdone, .hop⟩
    radio := { RadioState.afterBoot with opmode := 0b101#3, dio := 0x1F#8, frf := 0xE4C000#24, rssiRaw := 0x50#8 } }

/-- Listening with these bytes in the receive buffer. -/
def heard (frame : List Byte) : State :=
  { listening with radio := { listening.radio with rxFrame := frame } }

/-- Listening for the Acknowledge of a request to node 3. -/
def awaiting : State :=
  { listening with
    eng := .awAck
    opKind := some .req
    curKind := some .req
    outPid := 0x1234#16
    retry := 3#8
    attempt := 1#8
    reqDst := 3#16
    reqPayload := [0x58#8]
    timerArmed := true }

/-- A frame of this kind on air, sent by the host. -/
def onTheAir (k : Kind) : State :=
  { State.reset with
    mode := some .tx
    avail := false
    route := ⟨.txdone, .hop⟩
    eng := .awTx
    opKind := some k
    curKind := some k
    radio := { RadioState.afterBoot with opmode := 0b011#3, dio := 0x5F#8, transmitting := true } }

/-- No frequency table entry. -/
def noTable (s : State) : State := { s with cfg := { s.cfg with ftab := Vector.replicate 64 none } }

/-- One frequency everywhere in the table. -/
def flatTable (f : BitVec 32) (s : State) : State := { s with cfg := { s.cfg with ftab := Vector.replicate 64 (some f) } }

/-- A state with these inputs to come. -/
def given (script : List Event) (s : State) : State := { s with script := script }

/-! ### Mode commands (95_test_vectors.md section 2.3) -/

/-- V-MC-5. -/
theorem test_modeSleep : after (exec .modeSleep State.reset)
    (fun t => t.trace == [.write .opMode 0x80#8] && t.mode == some .sleep && t.avail) = true := by decide +kernel

/-- V-MC-4. -/
theorem test_modeStdby : after (exec .modeStdby listening)
    (fun t => t.trace == [.write .dioMapping1 0xFF#8, .write .opMode 0x81#8] && !t.avail && routeByte t.route == 0x09#8)
      = true := by decide +kernel

/-- V-CMD-14. -/
theorem test_modeTx : after (exec .modeTx State.reset) (fun t => t.fault == .callerError && t.trace == []) = true := by
  decide +kernel

/-- V-MC-8, V-MC-2: the index is the low 6 bits of RegHopChannel, and the accesses come in order. -/
theorem test_modeRxc : after (exec .modeRxc { State.reset with radio := { RadioState.afterBoot with hopCh := 0xC5#8 } })
    (fun t => t.trace == [.read .hopChannel 0xC5#8, .write .frfMsb 0xE5#8, .write .frfMid 0x60#8, .write .frfLsb 0x00#8,
      .write .dioMapping1 0x1F#8, .write .opMode 0x85#8] && t.hopIdx == 5#6 && !t.avail && routeByte t.route == 0x23#8)
      = true := by decide +kernel

/-- V-MC-11. -/
theorem test_modeRxc_overflow : after (exec .modeRxc (flatTable 1100000000#32 State.reset))
    (fun t => t.fault == .frfOverflow && t.trace == [.read .hopChannel 0x00#8] && t.mode == none) = true := by decide +kernel

/-- V-MC-6. -/
theorem test_modeRxs : after (exec .modeRxs State.reset) (fun t => t.trace == [.write .opMode 0x86#8] && t.avail) = true := by
  decide +kernel

/-- V-MC-7, V-MC-12. -/
theorem test_modeCad : after (exec .modeCad State.reset) (fun t => t.trace == [.write .opMode 0x87#8]) = true ∧
    after (exec .modeCad awaiting) (fun t => t.fault == .callerError && t.mode == some .rxc) = true := by decide +kernel

/-- R196: after a reset a RxDone flag of before raises line 0 at the first routing write, though the mapping is as it was. -/
theorem test_first_routing_raises :
    after (exec .modeRxc { State.reset with radio := { RadioState.afterBoot with irq := 0x40#8, dio := 0x1F#8 } })
      (fun t => t.edge0 && !t.edge1) = true := by decide +kernel

/-- R192: the registers of a FIFO access and of a carrier write, in order. -/
theorem test_access_registers :
    (Access.fifoWrite [0#8]).registers.map (·.reg.address) = [0x0D, 0x00, 0x22] ∧
      (Access.write .frfMsb 0xE4#8).registers.map (·.reg.address) = [0x06] := by decide +kernel

/-- R186: a radio event and a host read still to come leave a node quiescent, a host write does not. -/
theorem test_quiescent :
    (given [.radioHop 0x05#8, .read16 0x008#10] State.reset).quiescent = true ∧
      (given [.radioHop 0x05#8, .write16 0x002#10 0#16] State.reset).quiescent = false ∧
      State.quiescent { listening with edge0 := true } = false ∧ awaiting.quiescent = false := by decide +kernel

/-! ### Sends (95_test_vectors.md section 2.8) -/

/-- V-PE-4. -/
theorem test_sendReq_without_attempts : after (exec .sendReq { State.reset with plenReg := 1#8 })
    (fun t => statusWord t == 0x0007#16 && t.result == .timedOut && t.trace == [] && t.log == [⟨.requestTimedOut, 0⟩])
      = true := by decide +kernel

/-- P1 step B6, but for what depends on the drawn packet_id. -/
theorem test_sendReq : after (exec .sendReq { State.reset with retryReg := 3#8, plenReg := 1#8 })
    (fun t => t.eng == .awTx && t.mode == some .tx && t.curKind == some .req && t.timerArmed && t.attempt == 1#8
      && t.result == .busy && t.trace.length == 9) = true := by decide +kernel

/-- V-PE-3: 255 bytes are a result, not a fault. -/
theorem test_sendAck_oversize : after (exec .sendAck { State.reset with plenReg := 255#8 })
    (fun t => t.result == .payloadTooLarge && t.fault == .clear && t.trace == []) = true := by decide +kernel

/-- V-PE-10 with P_HOST_PID = ZERO. -/
theorem test_sendAck : after (exec .sendAck { State.reset with destReg := 2#16 })
    (fun t => t.radio.txFrame == [0#8, 0#8, 0#8, 2#8, 0#8, 0#8, 0#8, 1#8] && t.result == .sent) = true := by decide +kernel

/-- P3 step A1. -/
theorem test_sendBcast :
    after (exec .sendBcast { State.reset with destReg := 0xFFFF#16, plenReg := 1#8, mem := [(0x200, 0x59#8)] })
      (fun t => t.trace ==
        [.write .dioMapping1 0xFF#8, .write .opMode 0x81#8,
          .fifoWrite [0#8, 0#8, 0xFF#8, 0xFF#8, 0#8, 0#8, 0#8, 2#8, 0x59#8], .read .hopChannel 0x00#8,
          .write .frfMsb 0xE4#8, .write .frfMid 0xC0#8, .write .frfLsb 0x00#8, .write .dioMapping1 0x5F#8,
          .write .opMode 0x83#8]) = true := by decide +kernel

/-- V-PE-7. -/
theorem test_sendBcast_refused : after (exec .sendBcast { onTheAir .ack with eng := .idle, opKind := none })
    (fun t => t.fault == .callerError && t.trace == []) = true := by decide +kernel

/-! ### Dispatch (95_test_vectors.md sections 2.7, 2.9 and 2.12) -/

/-- V-TX-1, as a step. -/
theorem test_irqTxdone :
    after (step (given [.dispatch .line0]
        { onTheAir .req with edge0 := true, radio := { (onTheAir .req).radio with irq := 0x08#8, opmode := 0b001#3 } }))
      (fun t => t.eng == .awAck && t.mode == some .rxc && t.evq == [] && !t.edge0 && t.radio.irq == 0#8
        && t.trace.take 3 == [.read .irqFlags 0x08#8, .write .irqFlags 0xFF#8, .read .hopChannel 0x00#8]) = true := by
  decide +kernel

/-- V-RX-7, through the dispatch branch: the FIFO is read. -/
theorem test_irqRxdone :
    after (exec (.irqRxdone 0x50#8) { heard [0#8, 5#8, 0#8, 0#8, 0x43#8, 0x21#8, 0#8, 1#8] with outPid := 0x1234#16 })
      (fun t => t.trace == [.fifoRead [0#8, 5#8, 0#8, 0#8, 0x43#8, 0x21#8, 0#8, 1#8]] && t.log == [] && t.evq == []
        && t.outPid == 0x1234#16) = true := by decide +kernel

/-- V-RX-1: no FifoRead. -/
theorem test_irqRxdone_crc : after (exec (.irqRxdone 0x70#8) (heard []))
    (fun t => t.trace == [] && t.log == [⟨.malformedCrc, 0⟩] && t.evq == []) = true := by decide +kernel

/-- V-HOP-1. -/
theorem test_irqHop : after (exec (.irqHop 0x02#8) { listening with radio := { listening.radio with hopCh := 0x05#8 } })
    (fun t => t.radio.frf == 0xE56000#24 && t.hopIdx == 5#6) = true := by decide +kernel

/-- V-HOP-4. -/
theorem test_irqHop_single : after (exec (.irqHop 0x02#8) { listening with mode := some .rxs })
    (fun t => t.trace == [] && t.hopIdx == 0#6) = true := by decide +kernel

/-- V-IRQ-16. -/
theorem test_irqNone : after (exec (.irqNone 0xB5#8) listening)
    (fun t => t.log == [⟨.unrecognizedIrq, 0xB5⟩] && t.trace == []) = true := by decide +kernel

/-- V-TX-2. -/
theorem test_txdoneReq : after (exec .txdoneReq { onTheAir .req with cfg := { Config.testVectors with txcOnRequest := true } })
    (fun t => t.eng == .awAck && t.evq == [⟨.transmitComplete, [], 0#8, 0#16⟩] && !t.avail) = true := by decide +kernel

/-- V-TX-5: the auto-ack's TxDone does not end the node's own request. -/
theorem test_txdoneAck : after (exec .txdoneAck { awaiting with mode := some .tx, curKind := some .ack })
    (fun t => t.eng == .awAck && t.avail && t.evq.length == 1 && t.timerArmed) = true := by decide +kernel

/-- V-TX-3. -/
theorem test_txdoneBcast : after (exec .txdoneBcast (onTheAir .bcast))
    (fun t => t.eng == .done && t.avail && t.evq.length == 1 && t.trace == [] && t.mode == some .tx) = true := by
  decide +kernel

/-- V-TX-6, through the dispatch branch. -/
theorem test_txdoneNone : after (exec (.irqTxdone 0x08#8) State.reset)
    (fun t => t.log == [⟨.spuriousTxdone, 8⟩] && t.evq == []) = true := by decide +kernel

/-! ### Received frames (95_test_vectors.md section 2.10) -/

theorem test_rxCrcerr : after (exec (.rxCrcerr 0#17) State.reset)
    (fun t => t.log == [⟨.malformedCrc, 0⟩] && t.mode == some .rxc) = true := by decide +kernel

/-- V-RX-2. -/
theorem test_rxShort : after (exec (.rxShort 0#16) (heard [1#8, 2#8, 3#8, 4#8, 5#8]))
    (fun t => t.log == [⟨.malformedShort, 5⟩] && t.trace == []) = true := by decide +kernel

/-- V-RX-4: the auto-ack, then the record. -/
theorem test_rxReq : after (exec .rxReq (heard [0#8, 1#8, 0#8, 0#8, 0x12#8, 0x34#8, 0#8, 0#8, 0x48#8, 0x65#8]))
    (fun t => t.trace ==
        [.read .pktSnrValue 0x00#8, .read .pktRssiValue 0x50#8, .write .dioMapping1 0xFF#8, .write .opMode 0x81#8,
          .fifoWrite [0#8, 0#8, 0#8, 1#8, 0x12#8, 0x34#8, 0#8, 1#8], .read .hopChannel 0x00#8, .write .frfMsb 0xE4#8,
          .write .frfMid 0xC0#8, .write .frfLsb 0x00#8, .write .dioMapping1 0x5F#8, .write .opMode 0x83#8]
      && t.evq == [⟨.requestReceived, [0x48#8, 0x65#8], 0#8, 0xE401#16⟩] && t.curKind == some .ack && !t.avail)
      = true := by decide +kernel

/-- V-RX-5. -/
theorem test_rxReq_other_node : exec .rxReq (heard [0#8, 1#8, 0#8, 3#8, 0x12#8, 0x34#8, 0#8, 0#8, 0x58#8]) =
    .next (heard [0#8, 1#8, 0#8, 3#8, 0x12#8, 0x34#8, 0#8, 0#8, 0x58#8]) := rfl

/-- V-RX-7. -/
theorem test_rxAck :
    after (exec .rxAck { awaiting with radio := { awaiting.radio with rxFrame := [0#8, 5#8, 0#8, 0#8, 0x12#8, 0x34#8, 0#8, 1#8] } })
      (fun t => t.trace == [.write .dioMapping1 0xFF#8, .write .opMode 0x81#8] && t.outPid == 0#16 && t.avail
        && t.eng == .done && t.result == .success && !t.timerArmed) = true := by decide +kernel

/-- V-RX-8: a packet_id of 0 matches an idle node. -/
theorem test_rxAck_pid_zero : after (exec .rxAck (heard [0#8, 5#8, 0#8, 9#8, 0#8, 0#8, 0#8, 1#8]))
    (fun t => statusWord t == 0x0091#16 && t.eng == .idle) = true := by decide +kernel

/-- V-RX-13. -/
theorem test_rxBcast : after (exec .rxBcast { heard [0#8, 7#8, 0x12#8, 0x34#8, 0#8, 0#8, 0#8, 2#8] with mode := some .rxs })
    (fun t => t.evq == [⟨.broadcastReceived, [], 0#8, 0xE401#16⟩] && t.mode == some .rxc && t.trace.length == 8) = true := by
  decide +kernel

/-- V-RX-11. -/
theorem test_rxUnsupported : after (exec (.rxUnsupported 0xFFFF#16) listening)
    (fun t => t.log == [⟨.unsupportedKind, 65535⟩] && t.trace == []) = true := by decide +kernel

/-! ### Timer and event queue (95_test_vectors.md sections 2.11 and 2.13) -/

/-- V-TM-1. -/
theorem test_timerRetry : after (step (given [.timerExpire] awaiting))
    (fun t => t.attempt == 2#8 && t.eng == .awTx && t.outPid == 0x1234#16 && t.mode == some .tx
      && t.radio.txFrame == [0#8, 0#8, 0#8, 3#8, 0x12#8, 0x34#8, 0#8, 0#8, 0x58#8]) = true := by decide +kernel

/-- V-TM-2. -/
theorem test_timerFinal : after (step (given [.timerExpire] { awaiting with attempt := 3#8 }))
    (fun t => t.outPid == 0#16 && t.avail && t.eng == .done && t.result == .timedOut && !t.timerArmed && t.trace == []
      && t.log == [⟨.requestTimedOut, 3⟩] && t.mode == some .rxc) = true := by decide +kernel

/-- V-EQ-3, V-EQ-2: the pop, then the head's registers. -/
theorem test_evqPop :
    after (step (given [.write8 0x012#10 0xAA#8]
        { listening with evq := [⟨.requestReceived, [0x48#8], 40#8, 0xEC57#16⟩, ⟨.transmitComplete, [], 0#8, 0#16⟩] }))
      (fun t => t.evq == [⟨.transmitComplete, [], 0#8, 0#16⟩]) = true ∧
    after (step (given [.read16 0x016#10] { listening with evq := [⟨.requestReceived, [0x48#8], 40#8, 0xEC57#16⟩] }))
      (fun t => t.hostData == some 0xEC57#16) = true := by decide +kernel

/-! ### Host accesses, radio events, codec (95_test_vectors.md sections 2.2, 2.5 and 2.6) -/

/-- V-HA-4 to V-HA-7. -/
theorem test_illegal_accesses :
    ∀ e ∈ [Event.read8 0x018#10, .read16 0x005#10, .write16 0x008#10 0#16, .write8 0x2FF#10 0#8],
      after (step (given [e] State.reset)) (fun t => t.fault == .hostAccess) = true := by decide +kernel

/-- V-HA-8. -/
theorem test_last_payload_byte : after (step (given [.write8 0x2FE#10 0x41#8] State.reset))
    (fun t => t.mem == [(0x2FE, 0x41#8)] && t.fault == .clear) = true := by decide +kernel

/-- P1 steps E1 and E2, P5 step 2: the radio's events and the lines they raise. -/
theorem test_radio_events :
    after (step (given [.radioTxDone] (onTheAir .req)))
      (fun t => t.radio.irq == 0x08#8 && t.radio.opmode == 0b001#3 && t.edge0 && !t.edge1 && statusWord t == 0x24B2#16)
        = true ∧
    after (step (given [.radioRxDone [1#8] true 0x28#8 0x64#8] listening))
      (fun t => t.radio.irq == 0x70#8 && t.radio.rssiRaw == 0x64#8 && t.edge0) = true ∧
    after (step (given [.radioHop 0x05#8] listening)) (fun t => t.edge1 && statusWord t == 0x40D0#16) = true := by
  decide +kernel

/-- V-COD-1, V-COD-2, V-COD-9. -/
theorem test_codec :
    encodeFrame .big 1#16 0#16 0x1234#16 0#16 [0x48#8] =
      some [0#8, 1#8, 0#8, 0#8, 0x12#8, 0x34#8, 0#8, 0#8, 0x48#8] ∧
    encodeFrame .little 1#16 0#16 0x1234#16 0#16 [] = some [1#8, 0#8, 0#8, 0#8, 0x34#8, 0x12#8, 0#8, 0#8] ∧
    decodeFrame .little [0#8, 0#8, 0#8, 1#8, 0x12#8, 0x34#8, 0#8, 1#8] =
      some ⟨0#16, 0x0100#16, 0x3412#16, 0x0100#16, []⟩ := by decide +kernel

/-- V-LQ-1, V-LQ-3, V-LQ-7, V-LQ-8, V-LQ-9. -/
theorem test_link_quality :
    rssiC 40 100 = -5033 ∧ rssiC 0 255 = 11500 ∧ rssiC (-1) 255 = 9775 ∧ rssiC (-128) 0 = -18900 ∧
      rssiC 127 1 = -15593 := by decide +kernel

/-- V-FRF-7, V-FRF-9, V-FRF-10. -/
theorem test_carrier :
    frfOf Config.testVectors 902200000 = 0xE18CCC ∧ frfOf Config.testVectors 1023999999 = 0xFFFFFF ∧
      frfOf Config.testVectors 1024000000 = 0x1000000 := by decide +kernel

/-- A word of the opcode table, placed, is what the next step runs. -/
theorem test_withFetchWord :
    after (step (State.reset.withFetchWord 16 0x0052)) (fun t => t.mode == some .rxc) = true ∧
    after (step (State.reset.withFetchWord 8 0x02)) (fun t => t.radio.irq == 0#8 && t.trace.length == 2) = true ∧
    after (step (State.reset.withFetchWord 24 0x10000)) (fun t => t.log == [⟨.malformedShort, 0⟩]) = true ∧
    after (step (State.reset.withFetchWord 8 0x05)) (fun t => t.evq == [⟨.transmitComplete, [], 0#8, 0#16⟩]) = true ∧
    after (step (State.reset.withFetchWord 8 0x01)) (fun t => t.result == .timedOut) = true := by decide +kernel

/-! ### Witnesses: for each statement with hypotheses, a state and operands that meet all of them -/

theorem idle_reset : idleForHost State.reset := by unfold idleForHost; decide +kernel
theorem accepted_reset : sendAccepted State.reset := ⟨idle_reset, by decide +kernel⟩
theorem tunable_reset : tunable State.reset 915000000#32 := by unfold tunable; decide +kernel
theorem resumable_reset : resumable State.reset 915000000#32 := fun _ => tunable_reset

theorem witness_DecodeOfEncode :
    (Instr.rxUnsupported 3#16).wellFormed .default = true ∧ (Instr.irqNone 0xB5#8).wellFormed .default = true := by decide +kernel

theorem witness_EncodeOfDecode :
    decode .default (.rxSel 0x0FFFF#18) = .ok (.rxUnsupported 0xFFFF#16) ∧ decode .default (.curKind 0b011#3) = .ok (.txdoneNone 3#2) := by
  decide +kernel

theorem witness_ReservedWordRaisesReservedCommand :
    (given [.write16 0x000#10 0x0031#16] State.reset).script = [.write16 0x000#10 0x0031#16] ∧
      State.reset.fault = .clear ∧ decode .default (.cmd 0x0031#16) = .error (.reservedCommand 0x0031#16) ∧
      decode .default (.cmd 0x8012#16) = .error (.reservedCommand 0x8012#16) ∧
      decode .default (.cmd 0x0082#16) = .error (.reservedCommand 0x0082#16) := by decide +kernel

theorem witness_StepRunsSelectedOperation_cmd :
    (given [.write16 0x000#10 0x0052#16] State.reset).fault = .clear ∧ decode .default (.cmd 0x0052#16) = .ok .modeRxc := by
  decide +kernel

theorem witness_StepRunsSelectedOperation_pop :
    (given [.write8 0x012#10 0xFF#8] State.reset).fault = .clear ∧ decode .default (.hostReg 0x012#10) = .ok .evqPop := by
  decide +kernel

/-- A queue of seven records, one below P_QDEPTH. -/
def crowded (n : Nat) : State := { listening with edge1 := true, evq := List.replicate n txCompleteRecord }

theorem witness_StepRunsSelectedOperation_dispatch :
    (crowded 7).edge .line1 = true ∧ (crowded 7).fault = .clear ∧ (crowded 7).evq.length < (crowded 7).cfg.qdepth ∧
      decode .default (.irq (crowded 7).radio.irq) = .ok (.irqNone 0#8) := by decide +kernel

theorem witness_StepRunsSelectedOperation_timer :
    awaiting.timerArmed = true ∧ awaiting.fault = .clear ∧
      decode .default (.timer (if awaiting.retry.toNat ≤ awaiting.attempt.toNat then 1#1 else 0#1)) = .ok .timerRetry := by
  decide +kernel

theorem witness_DispatchHeldUnlessEnabled :
    (given [.dispatch .line0] (crowded 8)).edge .line0 = false ∧
      (given [.dispatch .line1] { crowded 0 with fault := .callerError }).fault ≠ .clear ∧
      (crowded 8).cfg.qdepth ≤ (crowded 8).evq.length := by decide +kernel

theorem witness_OperandWriteChangesOnlyItsRegister :
    (given [.write16 0x002#10 0xFFFF#16] State.reset).script = [.write16 0x002#10 0xFFFF#16] ∧
      (given [.write8 0x004#10 0xFF#8] State.reset).script = [.write8 0x004#10 0xFF#8] ∧
      (given [.write8 0x005#10 0xFF#8] State.reset).script = [.write8 0x005#10 0xFF#8] ∧
      (given [.write16 0x006#10 0xFFFF#16] State.reset).script = [.write16 0x006#10 0xFFFF#16] := by decide +kernel

theorem witness_PayloadWriteStoresOneByte :
    Memory.wf State.reset.mem ∧
      (given [.write8 0x2FE#10 0x41#8] State.reset).script = [.write8 (BitVec.ofNat 10 (0x200 + 254)) 0x41#8] ∧
      (given [.write8 0x200#10 0x41#8] State.reset).script = [.write8 (BitVec.ofNat 10 (0x200 + 0)) 0x41#8] := by
  decide +kernel

theorem witness_OperandReadsBackLastWrite :
    (∃ t u, step (given [.write16 0x002#10 0x1234#16, .read16 0x002#10] State.reset) = .next t ∧ step t = .next u) ∧
      (∃ t u, step (given [.write16 0x006#10 0xFFFF#16, .read16 0x006#10] State.reset) = .next t ∧ step t = .next u) ∧
      (∃ t u, step (given [.write8 0x004#10 0xFF#8, .read8 0x004#10] State.reset) = .next t ∧ step t = .next u) ∧
      (∃ t u, step (given [.write8 0x005#10 0xF1#8, .read8 0x005#10] State.reset) = .next t ∧ step t = .next u) ∧
      (∃ t u, step (given [.write8 0x2FE#10 0x41#8, .read8 0x2FE#10] State.reset) = .next t ∧ step t = .next u) :=
  ⟨⟨_, _, rfl, rfl⟩, ⟨_, _, rfl, rfl⟩, ⟨_, _, rfl, rfl⟩, ⟨_, _, rfl, rfl⟩, ⟨_, _, rfl, rfl⟩⟩

/-- 0x018, 0x0FF, 0x2FF and 0x3FF bound the reserved ranges; 0x008 is read-only; 0x001 lies inside CMD. -/
theorem witness_IllegalHostAccessFaults :
    (∀ o ∈ [0x018, 0x0FF, 0x2FF, 0x3FF, 0x008, 0x001], o ∉ [0x004, 0x005, 0x00A, 0x00B, 0x00E, 0x00F, 0x010, 0x011, 0x012, 0x013,
        0x014, 0x015] ∧ ¬(0x100 ≤ o ∧ o ≤ 0x2FE)) ∧
      (∀ o ∈ [0x005, 0x001, 0x018, 0x2FE], o ∉ [0x000, 0x002, 0x006, 0x008, 0x00C, 0x016]) ∧
      (∀ o ∈ [0x00B, 0x100, 0x1FF, 0x2FF], o ∉ [0x004, 0x005, 0x012] ∧ ¬(0x200 ≤ o ∧ o ≤ 0x2FE)) ∧
      (∀ o ∈ [0x008, 0x00C, 0x016], o ∉ [0x000, 0x002, 0x006]) := by decide +kernel

theorem witness_StatusShowsEveryField :
    (given [.read16 0x008#10] awaiting).script = [.read16 0x008#10] ∧
      (given [.peReset, .read16 0x008#10] awaiting).script = [.peReset, .read16 0x008#10] := ⟨rfl, rfl⟩

theorem witness_ReadOnlyRegistersShowTheState :
    (given [.read8 0x1FF#10] State.reset).script = [.read8 (BitVec.ofNat 10 (0x100 + 255))] ∧
      (given [.read16 0x00C#10] awaiting).script = [.read16 0x00C#10] ∧ awaiting.outPid = 0x1234#16 ∧
      (given [.read8 0x00E#10] awaiting).script = [.read8 0x00E#10] ∧ awaiting.attempt.setWidth 16 = 1#16 := by
  decide +kernel

theorem witness_ResetSetsEveryPeField : (given [.peReset] awaiting).script = [.peReset] := rfl

theorem witness_FaultKeepsItsFirstCode :
    ∃ t, step (given [.read8 0x018#10] { State.reset with fault := .reservedCommand }) = .next t := ⟨_, rfl⟩

theorem witness_FaultHoldsEveryPeStep :
    (given [.write16 0x000#10 0x0052#16] { State.reset with fault := .hostAccess }).fault ≠ .clear ∧
      (given [.dispatch .line0] { State.reset with fault := .hostAccess }).fault ≠ .clear := by decide +kernel

theorem witness_EveryStepAnswersNext :
    ({ State.reset with reqPayload := List.replicate 240 0#8 } : State).reqPayload.length ≤ 240 ∧
      240 < ({ State.reset with reqPayload := List.replicate 241 0#8 } : State).reqPayload.length := by decide +kernel

theorem witness_ModeCommandsRefusedOrRepeated :
    (Instr.modeCad, RadioMode.cad) ∈ modeCommands ∧ ¬idleForHost awaiting ∧ idleForHost listening ∧
      (Instr.modeRxc, RadioMode.rxc) ∈ modeCommands ∧ listening.mode = some .rxc := by
  unfold idleForHost; decide +kernel

theorem witness_SleepRxsCadWriteOnlyTheMode :
    idleForHost listening ∧ listening.mode ≠ some .sleep ∧ listening.mode ≠ some .rxs ∧ listening.mode ≠ some .cad := by
  unfold idleForHost; decide +kernel

theorem witness_StandbyUnroutesThenWritesTheMode : idleForHost listening ∧ listening.mode ≠ some .standby := by
  unfold idleForHost; decide +kernel

theorem witness_ReceiveContinuousEntry :
    idleForHost State.reset ∧ State.reset.mode ≠ some .rxc ∧ tunable State.reset 915000000#32 :=
  ⟨idle_reset, by decide +kernel, tunable_reset⟩

/-- 1 024 000 000 Hz is the least frequency whose carrier does not fit (V-FRF-10). -/
theorem witness_ResyncFaultEndsTheEntry :
    (idleForHost (noTable State.reset) ∧ (noTable State.reset).mode ≠ some .rxc ∧ tableEntry (noTable State.reset) = none) ∧
      (tableEntry (flatTable 1024000000#32 State.reset) = some 1024000000#32 ∧
        16777216 ≤ steps (flatTable 1024000000#32 State.reset) 1024000000#32) := by
  unfold idleForHost; decide +kernel

theorem witness_CarrierIsTheFloor :
    let s : State := flatTable 1100000000#32 State.reset
    (0 < s.cfg.fxosc ∧ s.cfg.fxosc = 32000000) ∧ idleForHost s ∧ s.mode ≠ some .rxc ∧ tableEntry s = some 1100000000#32 := by
  unfold idleForHost; decide +kernel

theorem witness_RoutingRaisesEdges : listening.route.line0 ≠ .unknown ∧ State.reset.route = ⟨.unknown, .unknown⟩ := by
  decide +kernel

theorem witness_OversizePayloadOnlyRecordsResult :
    Instr.sendAck ∈ sendCommands ∧ 240 < ({ State.reset with plenReg := 241#8 } : State).plenReg.toNat ∧
      sendAccepted { State.reset with plenReg := 241#8 } ∧ ¬sendAccepted { awaiting with plenReg := 241#8 } := by
  unfold sendAccepted idleForHost; decide +kernel

theorem witness_SendWhileBusyIsCallerError :
    Instr.sendBcast ∈ sendCommands ∧ (onTheAir .req).eng = .awTx ∧ awaiting.eng = .awAck ∧ awaiting.outPid ≠ 0#16 ∧
      ((onTheAir .ack).mode = some .tx ∧ (onTheAir .ack).avail = false) := by decide +kernel

theorem witness_RequestWithoutAttemptsEndsAtOnce :
    sendAccepted State.reset ∧ State.reset.plenReg.toNat ≤ 240 ∧ State.reset.retryReg = 0#8 :=
  ⟨accepted_reset, by decide +kernel, by decide +kernel⟩

/-- The longest payload, and the most attempts. -/
theorem witness_AcceptedRequestIsTransmitted :
    let s : State := { State.reset with plenReg := 240#8, retryReg := 255#8 }
    sendAccepted s ∧ s.plenReg.toNat ≤ 240 ∧ s.retryReg ≠ 0#8 ∧ tunable s 915000000#32 := by
  unfold sendAccepted idleForHost tunable; decide +kernel

theorem witness_AcceptedAckOrBroadcastIsTransmitted :
    let s : State := { State.reset with plenReg := 240#8 }
    sendAccepted s ∧ s.plenReg.toNat ≤ 240 ∧ tunable s 915000000#32 ∧ s.cfg.hostPid = .zero ∧
      ({ s with cfg := { s.cfg with hostPid := .draw } } : State).cfg.hostPid = .draw := by
  unfold sendAccepted idleForHost tunable; decide +kernel

theorem unwritten_fails (s : State) (h : tableEntry s = none) : resyncFails s .ftabUnwritten := .inl ⟨h, rfl⟩

/-- A host about to send one byte on a channel the table does not hold. -/
def sendingUntuned : State := noTable { State.reset with plenReg := 1#8, retryReg := 1#8 }

/-- Both resync faults; an accepted send under both values of P_HOST_PID; a retry; an auto-ack. -/
theorem witness_ResyncFaultInsideSendKeepsEarlierWrites :
    (resyncFails sendingUntuned .ftabUnwritten ∧ sendAccepted sendingUntuned ∧ sendingUntuned.plenReg.toNat ≤ 240 ∧
        sendingUntuned.retryReg ≠ 0#8 ∧ sendingUntuned.cfg.hostPid = .zero ∧
        sendAccepted { sendingUntuned with cfg := { sendingUntuned.cfg with hostPid := .draw } }) ∧
      (resyncFails (flatTable 1024000000#32 awaiting) .frfOverflow ∧
        (flatTable 1024000000#32 awaiting).reqPayload.length ≤ 240) ∧
      (resyncFails (noTable (heard [0#8, 1#8, 0#8, 0#8, 0x12#8, 0x34#8, 0#8, 0#8])) .ftabUnwritten ∧
        ∃ p, decodeFrame .big [0#8, 1#8, 0#8, 0#8, 0x12#8, 0x34#8, 0#8, 0#8] = some p ∧ p.dst = State.reset.cfg.nodeId) :=
  ⟨⟨unwritten_fails _ (by decide +kernel), by unfold sendAccepted idleForHost; decide +kernel⟩,
    ⟨.inr ⟨1024000000#32, by decide +kernel⟩, by decide +kernel⟩, ⟨unwritten_fails _ (by decide +kernel), _, rfl, rfl⟩⟩

theorem witness_TxdoneOfRequestListens :
    resumable (onTheAir .req) 915000000#32 ∧ (onTheAir .req).curKind = some .req ∧
      resumeFails (noTable (onTheAir .req)) .ftabUnwritten :=
  ⟨fun _ => by unfold tunable; decide +kernel, rfl, by decide +kernel, unwritten_fails _ (by decide +kernel)⟩

theorem witness_TxdoneOfAckOrBroadcastFreesTheNode :
    (onTheAir .ack).curKind = some .ack ∧ (onTheAir .bcast).curKind = some .bcast ∧ State.reset.curKind = none := by
  decide +kernel

/-- A node in Standby: listening cannot resume where the frequency table is empty. -/
theorem resumeFails_reset : resumeFails (noTable State.reset) .ftabUnwritten :=
  ⟨by decide +kernel, unwritten_fails _ (by decide +kernel)⟩

theorem witness_DroppedFramesAreLoggedAndListeningResumes :
    resumable State.reset 915000000#32 ∧ resumeFails (noTable State.reset) .ftabUnwritten :=
  ⟨resumable_reset, resumeFails_reset⟩

theorem witness_CrcErrorIsNeverDelivered :
    resumable State.reset 915000000#32 ∧ resumeFails (noTable State.reset) .ftabUnwritten ∧
      flagSet 0x70#8 State.reset.cfg.irqBits.crc = true :=
  ⟨resumable_reset, resumeFails_reset, by decide +kernel⟩

/-- A Request to node 0 with a 240-byte payload and with none. -/
theorem witness_AddressedRequestIsAcknowledgedAndDelivered :
    (∃ p, decodeFrame .big [0#8, 1#8, 0#8, 0#8, 0x12#8, 0x34#8, 0#8, 0#8] = some p ∧ p.dst = State.reset.cfg.nodeId) ∧
      tunable (heard [0#8, 1#8, 0#8, 0#8, 0x12#8, 0x34#8, 0#8, 0#8]) 915000000#32 :=
  ⟨⟨_, rfl, rfl⟩, by unfold tunable; decide +kernel⟩

theorem witness_MatchingAcknowledgeEndsTheRequest :
    ∃ p, decodeFrame awaiting.cfg.hdrOrder [0#8, 5#8, 0#8, 9#8, 0x12#8, 0x34#8, 0#8, 1#8] = some p ∧ p.pid = awaiting.outPid :=
  ⟨_, rfl, rfl⟩

theorem witness_FramesForOthersAreIgnored :
    (∃ p, decodeFrame .big [0#8, 1#8, 0#8, 3#8, 0x12#8, 0x34#8, 0#8, 0#8] = some p ∧ p.dst ≠ State.reset.cfg.nodeId ∧
      p.pid ≠ State.reset.outPid) ∧ resumable (heard [0#8, 1#8, 0#8, 3#8, 0x12#8, 0x34#8, 0#8, 0#8]) 915000000#32 ∧
      resumeFails { noTable (heard [0#8, 1#8, 0#8, 3#8, 0x12#8, 0x34#8, 0#8, 0#8]) with mode := some .rxs } .ftabUnwritten :=
  ⟨⟨_, rfl, by decide +kernel, by decide +kernel⟩, fun _ => by unfold tunable; decide +kernel, by decide +kernel,
    unwritten_fails _ (by decide +kernel)⟩

theorem witness_BroadcastIsDelivered :
    (∃ p, decodeFrame .big [0#8, 7#8, 0x12#8, 0x34#8, 0#8, 0#8, 0#8, 2#8] = some p ∧ p.kind = 2#16) ∧
      resumable (heard [0#8, 7#8, 0x12#8, 0x34#8, 0#8, 0#8, 0#8, 2#8]) 915000000#32 ∧
      resumeFails { noTable (heard [0#8, 7#8, 0x12#8, 0x34#8, 0#8, 0#8, 0#8, 2#8]) with mode := some .rxs } .ftabUnwritten ∧
      flagSet 0x50#8 State.reset.cfg.irqBits.crc = false :=
  ⟨⟨_, rfl, rfl⟩, fun _ => by unfold tunable; decide +kernel, ⟨by decide +kernel, unwritten_fails _ (by decide +kernel)⟩,
    by decide +kernel⟩

theorem witness_HopIsFollowedOnlyWhileActive :
    (listening.mode = some .rxc ∧ tunable listening 915000000#32) ∧ tableEntry (noTable listening) = none ∧
      (tableEntry (flatTable 1024000000#32 listening) = some 1024000000#32 ∧
        16777216 ≤ steps (flatTable 1024000000#32 listening) 1024000000#32) ∧
      (State.reset.mode ≠ some .tx ∧ State.reset.mode ≠ some .rxc) := by
  unfold tunable; decide +kernel

theorem witness_RetryTransmitsTheSameRequest : awaiting.reqPayload.length ≤ 240 ∧ tunable awaiting 915000000#32 := by
  unfold tunable; decide +kernel

theorem witness_PopRemovesTheHead :
    State.reset.evq = [] ∧ (crowded 8).evq = txCompleteRecord :: List.replicate 7 txCompleteRecord ∧
      (given [.write8 0x012#10 0#8] State.reset).fault = .clear ∧
      ((crowded 8).evq.length = (crowded 8).cfg.qdepth ∧ 0 < (crowded 8).cfg.qdepth ∧ (crowded 8).edge .line1 = true ∧
        (crowded 8).fault = .clear) ∧ ∃ t, exec .evqPop (crowded 8) = .next t :=
  ⟨rfl, rfl, rfl, ⟨rfl, by decide +kernel, rfl, rfl⟩, ⟨_, rfl⟩⟩

theorem witness_RadioEventsChangeTheRadio :
    ((onTheAir .req).radio.transmitting = true ∧ listening.radio.transmitting = false) ∧
      ((List.replicate 255 0#8).length ≤ 255 ∧ listening.radio.opmode = 0b101#3) ∧
      ({ listening.radio with opmode := 0b110#3 } : RadioState).opmode = 0b110#3 ∧
      (State.reset.radio.opmode ≠ 0b101#3 ∧ State.reset.radio.opmode ≠ 0b110#3 ∧ State.reset.radio.opmode ≠ 0b011#3) ∧
      State.reset.cfg.irqBits.distinct := by
  decide +kernel

theorem witness_RadioEventsRaiseEdges :
    (onTheAir .req).cfg.irqBits.distinct ∧ (onTheAir .req).route.line0 ≠ .unknown ∧ (∃ t, step (given [.radioTxDone] (onTheAir .req)) = .next t) ∧
      (∃ t, step (given [.radioRxDone [] false 0#8 0#8] listening) = .next t) ∧
      (∃ t, step (given [.radioHop 0xFF#8] listening) = .next t) ∧
      (∃ t, step (given [.radioFlag .cadDone] listening) = .next t) :=
  ⟨by decide +kernel, by decide +kernel, ⟨_, rfl⟩, ⟨_, rfl⟩, ⟨_, rfl⟩, ⟨_, rfl⟩⟩

theorem witness_CodecRoundTrip :
    (List.replicate 240 0#8).length ≤ 240 ∧ 240 < (List.replicate 241 0#8).length := by decide +kernel

theorem witness_RssiIsTheNearestHundredth : (0xFF#8).toInt < 0 ∧ (0x80#8).toInt < 0 ∧ 0 ≤ (0x00#8).toInt := by decide +kernel

theorem witness_OperationsLeaveOperandsAndRadioInputs : ∃ t, exec .modeRxc State.reset = .next t := ⟨_, rfl⟩

theorem witness_OnlyNamedOperationsWriteTheRequest : ∃ t, exec .timerFinal awaiting = .next t := ⟨_, rfl⟩

/-- A step in which `s.eng` changes. -/
theorem witness_EngineChangesOnlyByTheTable :
    State.requestInvariant { awaiting with retry := 1#8 } ∧
    (∃ t, step (given [.timerExpire] { awaiting with retry := 1#8 }) = .next t ∧ t.eng ≠ awaiting.eng) ∧
      Event.timerExpire ≠ .peReset :=
  ⟨by decide +kernel, ⟨_, rfl, by decide +kernel⟩, by decide +kernel⟩

theorem witness_LogAndTraceOnlyGrow :
    (∃ t, step (given [.radioFlag .cadDone] awaiting) = .next t) ∧
      (given [.radioFlag .cadDone] awaiting).script.head? ≠ some .peReset := ⟨⟨_, rfl⟩, by decide +kernel⟩

/-- The invariant holds of a state in which a request is under way. -/
theorem witness_StepKeepsRequestInvariant :
    awaiting.requestInvariant ∧ ∃ t, step (given [.timerExpire] awaiting) = .next t := ⟨by decide +kernel, ⟨_, rfl⟩⟩

theorem witness_StepKeepsRequestsNumbered :
    awaiting.requestInvariant ∧ awaiting.requestsNumbered := ⟨by decide +kernel, by intro _ h; simp [awaiting, listening, State.reset, State.pristine] at h⟩

theorem witness_StepKeepsFieldsInRange : awaiting.inRange ∧ awaiting.queueInRange := by decide +kernel

theorem witness_StepKeepsShadowAndRoute :
    listening.shadowInvariant ∧ listening.routeInvariant ∧ (onTheAir .req).shadowInvariant :=
  ⟨⟨fun m h => by cases h; decide +kernel, by decide +kernel⟩, .inr ⟨.receive, by decide +kernel⟩,
    ⟨fun m h => by cases h; decide +kernel, by decide +kernel⟩⟩

theorem witness_TransmittingRadioReceivesNothing :
    (onTheAir .req).shadowInvariant ∧ (onTheAir .req).radio.transmitting = true :=
  ⟨⟨fun m h => by cases h; decide +kernel, by decide +kernel⟩, rfl⟩

end Sys2Proof.Tests
end

section
/-! SUPPORT. What a host read answers: the step of an allowed read, the fields of STATUS (R31), the code of every other
readable register (R30, R32 to R35), and the settling of the two statements on reads. -/

namespace Sys2Proof.Machine

/-! ### The step of a read, and of PE reset -/

theorem hostRead_accessed {w : Width} {o : BitVec 10} {r : HostReg} (hr : accessed w o = some r) (s : State) :
    hostRead w o s = { s with hostData := some (readRegister r s) } := by
  simp only [hostRead, hr]

/-- An allowed 8-bit read takes its input and answers the register: nothing else changes (R53). -/
theorem step_read8 {s : State} {o : BitVec 10} {rest : List Event} {r : HostReg} {v : Half}
    (hs : s.script = .read8 o :: rest) (hr : accessed .byte o = some r) (hv : readRegister r s = v) :
    step s = .next { s with script := rest, hostData := some v } := by
  rw [step_cons hs, ← hv]
  exact congrArg Host.Outcome.next (hostRead_accessed hr _)

/-- An allowed 16-bit read takes its input and answers the register: nothing else changes (R53). -/
theorem step_read16 {s : State} {o : BitVec 10} {rest : List Event} {r : HostReg} {v : Half}
    (hs : s.script = .read16 o :: rest) (hr : accessed .half o = some r) (hv : readRegister r s = v) :
    step s = .next { s with script := rest, hostData := some v } := by
  rw [step_cons hs, ← hv]
  exact congrArg Host.Outcome.next (hostRead_accessed hr _)

theorem step_peReset {s : State} {rest : List Event} (hs : s.script = .peReset :: rest) :
    step s = .next (peReset { s with script := rest }) := step_cons hs

/-- EV_DATA[n] is the byte register at 0x100 + n (R30). -/
theorem accessed_evData {n : Nat} (hn : n ≤ 255) : accessed .byte (BitVec.ofNat 10 (0x100 + n)) = some (.evData n) := by
  have ho : (BitVec.ofNat 10 (0x100 + n)).toNat = 0x100 + n := by
    rw [BitVec.toNat_ofNat]; omega
  have hreg : hostRegAt (BitVec.ofNat 10 (0x100 + n)) = some (.evData n) := by
    unfold hostRegAt
    rw [ho]
    repeat rw [if_neg (by omega)]
    rw [if_pos (by omega), Nat.add_sub_cancel_left]
  simp only [accessed, hreg, HostReg.width, if_true]

/-! ### The fields of STATUS (R31) -/

/-- The layout of STATUS, position by position. -/
theorem statusWord_getLsbD (s : State) {i : Nat} (hi : i < 16) : (statusWord s).getLsbD i =
    if i < 1 then s.avail
    else if i < 3 then s.eng.code.getLsbD (i - 1)
    else if i < 4 then decide (s.outPid ≠ Config.noRequest)
    else if i < 8 then (modeField s.mode).getLsbD (i - 4)
    else if i < 11 then (kindField s.curKind).getLsbD (i - 8)
    else if i < 12 then s.timerArmed
    else if i < 13 then decide (s.fault ≠ .clear)
    else if i < 14 then s.edge0
    else if i < 15 then s.edge1
    else false := by
  -- The width as the sum of the fields' widths: the law of `++` needs it in this form.
  change @BitVec.getLsbD (1 + 1 + 1 + 1 + 1 + 3 + 4 + 1 + 2 + 1) _ _ = _
  unfold statusWord
  simp only [BitVec.getLsbD_append, BitVec.getLsbD_ofBool]
  interval_cases i <;> simp

@[simp] theorem statusWord_avail (s : State) : (statusWord s)[0] = s.avail :=
  statusWord_getLsbD s (by decide : 0 < 16)

@[simp] theorem statusWord_eng (s : State) : (statusWord s).extractLsb' 1 2 = s.eng.code := by
  ext i hi
  rw [BitVec.getElem_extractLsb', statusWord_getLsbD s (by omega)]
  interval_cases i <;> simp

@[simp] theorem statusWord_pending (s : State) : (statusWord s)[3] = decide (s.outPid ≠ Config.noRequest) :=
  statusWord_getLsbD s (by decide : 3 < 16)

@[simp] theorem statusWord_mode (s : State) : (statusWord s).extractLsb' 4 3 = (modeField s.mode).extractLsb' 0 3 := by
  ext i hi
  rw [BitVec.getElem_extractLsb', statusWord_getLsbD s (by omega)]
  interval_cases i <;> simp

@[simp] theorem statusWord_modeValid (s : State) : (statusWord s)[7] = (modeField s.mode)[3] :=
  statusWord_getLsbD s (by decide : 7 < 16)

@[simp] theorem statusWord_curKind (s : State) : (statusWord s).extractLsb' 8 2 = (kindField s.curKind).extractLsb' 0 2 := by
  ext i hi
  rw [BitVec.getElem_extractLsb', statusWord_getLsbD s (by omega)]
  interval_cases i <;> simp

@[simp] theorem statusWord_curKindValid (s : State) : (statusWord s)[10] = (kindField s.curKind)[2] :=
  statusWord_getLsbD s (by decide : 10 < 16)

@[simp] theorem statusWord_timerArmed (s : State) : (statusWord s)[11] = s.timerArmed :=
  statusWord_getLsbD s (by decide : 11 < 16)

@[simp] theorem statusWord_faulted (s : State) : (statusWord s)[12] = decide (s.fault ≠ .clear) :=
  statusWord_getLsbD s (by decide : 12 < 16)

@[simp] theorem statusWord_edge0 (s : State) : (statusWord s)[13] = s.edge0 :=
  statusWord_getLsbD s (by decide : 13 < 16)

@[simp] theorem statusWord_edge1 (s : State) : (statusWord s)[14] = s.edge1 :=
  statusWord_getLsbD s (by decide : 14 < 16)

@[simp] theorem statusWord_reserved (s : State) : (statusWord s)[15] = false :=
  statusWord_getLsbD s (by decide : 15 < 16)

/-- After a PE reset only AVAIL is set (R39). -/
theorem statusWord_peReset (s : State) : statusWord (peReset s) = 0x0001#16 := by
  simp [statusWord, peReset, State.pristine, Eng.code, kindField, modeField]

/-- MODE_VALID is set exactly when the mode is known. -/
theorem modeField_valid (m : Option RadioMode) : (modeField m)[3] = m.isSome := by
  cases m with
  | none => rfl
  | some m => cases m <;> rfl

/-- CUR_KIND_VALID is set exactly when a kind is recorded. -/
theorem kindField_valid (k : Option Kind) : (kindField k)[2] = k.isSome := by
  cases k with
  | none => rfl
  | some k => cases k <;> rfl

/-! ### The codes of the other readable registers (R30, R32 to R35) -/

theorem headField_nil {s : State} (h : s.evq = []) (f : EvRecord → Half) : headField s f = 0#16 := by
  simp only [headField, h]

theorem headField_cons {s : State} {r : EvRecord} {q : List EvRecord} (h : s.evq = r :: q) (f : EvRecord → Half) :
    headField s f = f r := by
  simp only [headField, h]

/-- A count shown in a byte register is the count modulo 256. -/
theorem setWidth_countByte (n : Nat) : (BitVec.ofNat 8 n).setWidth 16 = BitVec.ofNat 16 (n % 256) := by
  apply BitVec.eq_of_toNat_eq
  simp only [BitVec.toNat_setWidth, BitVec.toNat_ofNat]

/-- ROUTE packs the two line codes in octal (R34). -/
theorem routeByte_octal (r : Route) :
    (routeByte r).setWidth 16 = BitVec.ofNat 16 (8 * r.line1.code.toNat + r.line0.code.toNat) := by
  have pack : ∀ a b : BitVec 3, (0#2 ++ a ++ b).setWidth 16 = BitVec.ofNat 16 (8 * a.toNat + b.toNat) := by decide
  exact pack r.line1.code r.line0.code

end Sys2Proof.Machine

namespace Sys2Proof.Proofs

open Sys2Proof.Machine

/-- Settles O14: the read answers `statusWord`, whose fields are read off one by one. -/
theorem statusShowsEveryField : Obligations.StatusShowsEveryField := by
  refine ⟨fun s rest hs => ?_, fun s rest hs => ?_⟩
  · exact ⟨_, _, step_peReset hs, step_read16 rfl rfl (statusWord_peReset _), rfl⟩
  refine ⟨statusWord s, step_read16 hs rfl rfl, statusWord_avail s, ?eng, ?pending, ?mode, ?modeValid, ?curKind,
    ?curKindValid, statusWord_timerArmed s, ?faulted, statusWord_edge0 s, statusWord_edge1 s, statusWord_reserved s⟩
  case eng => rw [statusWord_eng]; cases s.eng <;> rfl
  case pending => rw [statusWord_pending, decide_eq_true_iff]
  case mode => rw [statusWord_mode]; rcases s.mode with _ | _ | _ | _ | _ | _ | _ <;> rfl
  case modeValid => rw [statusWord_modeValid, modeField_valid, Option.isSome_eq_false_iff, Option.isNone_iff_eq_none]
  case curKind => rw [statusWord_curKind]; rcases s.curKind with _ | _ | _ | _ <;> rfl
  case curKindValid =>
    rw [statusWord_curKindValid, kindField_valid, Option.isSome_eq_false_iff, Option.isNone_iff_eq_none]
  case faulted => rw [statusWord_faulted, decide_eq_true_iff]

/-- Settles O15: each offset reaches its register, and the register's value is the coded field. -/
theorem readOnlyRegistersShowTheState : Obligations.ReadOnlyRegistersShowTheState := by
  unfold Obligations.ReadOnlyRegistersShowTheState
  intro routeCode s rest o v
  have routeCode_eq (c : RouteCode) : routeCode c = c.code.toNat := by cases c <;> rfl
  refine ⟨fun n hn hs => ?evData, fun hs hov => ?half, fun hs hov => ?byte⟩
  case evData => exact step_read8 hs (accessed_evData hn) rfl
  case half =>
    -- CMD, OUT_PID, EV_RSSI.
    simp only [List.mem_cons, Prod.mk.injEq, List.not_mem_nil, or_false] at hov
    rcases hov with ⟨rfl, rfl⟩ | ⟨rfl, rfl⟩ | ⟨rfl, rfl⟩
    · exact step_read16 hs rfl rfl
    · exact step_read16 hs rfl rfl
    · exact step_read16 hs rfl rfl
  case byte =>
    -- In the order of the statement: RESULT, FAULT, ATTEMPT, HOP_IDX, ROUTE, EVQ_COUNT, EVQ_POP, EV_TYPE, EV_LEN, EV_SNR.
    simp only [List.mem_cons, Prod.mk.injEq, List.not_mem_nil, or_false] at hov
    rcases hov with ⟨rfl, rfl⟩ | ⟨rfl, rfl⟩ | ⟨rfl, rfl⟩ | ⟨rfl, rfl⟩ | ⟨rfl, rfl⟩ | ⟨rfl, rfl⟩ | ⟨rfl, rfl⟩ | ⟨rfl, rfl⟩ |
      ⟨rfl, rfl⟩ | ⟨rfl, rfl⟩
    · exact step_read8 hs rfl (by unfold readRegister; cases s.result <;> rfl)
    · exact step_read8 hs rfl (by unfold readRegister; cases s.fault <;> rfl)
    · exact step_read8 hs rfl rfl
    · exact step_read8 hs rfl rfl
    · exact step_read8 hs rfl (by rw [routeCode_eq, routeCode_eq]; exact routeByte_octal s.route)
    · exact step_read8 hs rfl (setWidth_countByte s.evq.length)
    · exact step_read8 hs rfl rfl
    · refine step_read8 hs rfl ?_
      rcases hq : s.evq with _ | ⟨⟨type, data, snr, rssi⟩, q⟩
      · exact headField_nil hq _
      · cases type <;> exact headField_cons hq _
    · refine step_read8 hs rfl ?_
      rcases hq : s.evq with _ | ⟨r, q⟩
      · exact headField_nil hq _
      · exact (headField_cons hq _).trans (setWidth_countByte r.data.length)
    · exact step_read8 hs rfl rfl

end Sys2Proof.Proofs
end

section
/-! SUPPORT. Which CMD words the decoder rejects (R61, R78), format by format, and the step of a rejected word; with the
settling of the statement on reserved words. -/

namespace Sys2Proof

/-- A bit field of a CMD word holds a code exactly when the word's number, divided and reduced, is the code's. -/
theorem extractLsb'_eq_iff_toNat (w : Half) (lo n : Nat) (k : BitVec n) :
    w.extractLsb' lo n = k ↔ w.toNat / 2 ^ lo % 2 ^ n = k.toNat := by
  rw [← BitVec.toNat_inj, BitVec.extractLsb'_toNat, Nat.shiftRight_eq_div_pow]

/-- Of the four values of KIND only 11 is reserved; bits [15:6] have to be zero (R61). -/
theorem decodeSend_rejects_iff (w : Half) :
    (∃ e, decodeSend w = .error e) ↔ w.toNat / 16 % 4 = 3 ∨ w.toNat / 64 ≠ 0 := by
  have hw : w.toNat < 65536 := w.isLt
  have high : w.extractLsb' 6 10 = 0#10 ↔ w.toNat / 64 = 0 := by
    rw [extractLsb'_eq_iff_toNat]
    change w.toNat / 64 % 1024 = 0 ↔ _
    omega
  have kind (k : BitVec 2) : w.extractLsb' 4 2 = k ↔ w.toNat / 16 % 4 = k.toNat := extractLsb'_eq_iff_toNat w 4 2 k
  by_cases hhigh : w.toNat / 64 = 0
  · have hkind : w.toNat / 16 % 4 = 0 ∨ w.toNat / 16 % 4 = 1 ∨ w.toNat / 16 % 4 = 2 ∨ w.toNat / 16 % 4 = 3 := by omega
    rcases hkind with h | h | h | h <;> simp [decodeSend, high, kind, hhigh, h]
  · simp [decodeSend, high, hhigh]

/-- Of the eight mode codes 010 and 100 are reserved (R66); bits [15:7] have to be zero (R61). -/
theorem decodeSetMode_rejects_iff (w : Half) :
    (∃ e, decodeSetMode w = .error e) ↔
      w.toNat / 16 % 8 = 2 ∨ w.toNat / 16 % 8 = 4 ∨ w.toNat / 128 ≠ 0 := by
  have hw : w.toNat < 65536 := w.isLt
  have high : w.extractLsb' 7 9 = 0#9 ↔ w.toNat / 128 = 0 := by
    rw [extractLsb'_eq_iff_toNat]
    change w.toNat / 128 % 512 = 0 ↔ _
    omega
  have code (k : BitVec 3) : w.extractLsb' 4 3 = k ↔ w.toNat / 16 % 8 = k.toNat := extractLsb'_eq_iff_toNat w 4 3 k
  by_cases hhigh : w.toNat / 128 = 0
  · have hcode : w.toNat / 16 % 8 < 8 := Nat.mod_lt _ (by decide)
    generalize w.toNat / 16 % 8 = c at code hcode ⊢
    interval_cases c <;> simp [decodeSetMode, high, code, hhigh]
  · simp [decodeSetMode, high, hhigh]

/-- OP selects the half of the decoder that judges the word; every other OP is reserved. -/
theorem decodeCmd_rejects_iff (w : Half) :
    (∃ e, decodeCmd w = .error e) ↔
      (w.toNat % 16 ≠ 1 ∧ w.toNat % 16 ≠ 2) ∨ (w.toNat % 16 = 1 ∧ ∃ e, decodeSend w = .error e) ∨
        (w.toNat % 16 = 2 ∧ ∃ e, decodeSetMode w = .error e) := by
  have op (k : BitVec 4) : w.extractLsb' 0 4 = k ↔ w.toNat % 16 = k.toNat := by
    rw [extractLsb'_eq_iff_toNat, pow_zero, Nat.div_one]; rfl
  by_cases hsend : w.toNat % 16 = 1
  · simp [decodeCmd, op, hsend]
  by_cases hmode : w.toNat % 16 = 2
  · simp [decodeCmd, op, hmode]
  · simp [decodeCmd, op, hsend, hmode]

end Sys2Proof

namespace Sys2Proof.Machine

/-- A selector that decodes to no operation raises RESERVED_COMMAND. -/
theorem select_error {sel : Selector} {s : State} {e : DecodeError} (h : decode s.cfg.irqBits sel = .error e) :
    select sel s = .done (recordFault .reservedCommand s) := by
  simp only [select, h]

/-- With no fault set, a 16-bit write at CMD's offset is decoded as a CMD word. -/
theorem fetch_cmd {s : State} (hf : s.fault = .clear) (w : Half) : fetch (.write16 0x000#10 w) s = select (.cmd w) s :=
  if_pos hf

/-- With no fault set, the fault raised is the one recorded. -/
theorem recordFault_of_clear {s : State} (hf : s.fault = .clear) (c : PeFault) :
    recordFault c s = { s with fault := c } := by
  simp only [recordFault, hf, if_true]

/-- Writing a word the decoder rejects records the fault and nothing else (R78). -/
theorem fetch_cmd_error {s : State} {w : Half} {e : DecodeError} (hf : s.fault = .clear)
    (hd : decode s.cfg.irqBits (.cmd w) = .error e) :
    fetch (.write16 0x000#10 w) s = .done { s with fault := .reservedCommand } := by
  rw [fetch_cmd hf, select_error hd, recordFault_of_clear hf]

end Sys2Proof.Machine

namespace Sys2Proof.Proofs

open Sys2Proof.Machine

/-- Settles O4: the reserved words are those each half of the decoder rejects, and a rejected word's step only records the
fault. -/
theorem reservedWordRaisesReservedCommand : Obligations.ReservedWordRaisesReservedCommand := by
  refine ⟨fun b w => ?_, fun s w e rest hs hf hd => ?_⟩
  · rw [← decodeSend_rejects_iff, ← decodeSetMode_rejects_iff]
    exact decodeCmd_rejects_iff w
  · rw [step_cons hs]
    exact congrArg runFetched (fetch_cmd_error (s := { s with script := rest }) hf hd)

end Sys2Proof.Proofs
end

section
/-! SUPPORT. The packet codec and the link quality (R99, R103): the number of a header field's two bytes, what a frame of at
least 8 bytes decodes to, and the two branches of the RSSI with their ranges; with the settling of the two statements of
41_packet_codec.md. -/

namespace Sys2Proof.Machine

/-! ### Header fields and frames (R71, R99) -/

/-- Two bytes side by side are the number with the left one as its high digit to base 256. -/
theorem append_eq_ofNat (high low : Byte) : high ++ low = BitVec.ofNat 16 (256 * high.toNat + low.toNat) := by
  apply BitVec.eq_of_toNat_eq
  rw [BitVec.toNat_append, ← Nat.shiftLeft_add_eq_or_of_lt low.isLt, Nat.shiftLeft_eq, BitVec.toNat_ofNat]
  have hhigh := high.isLt
  have hlow := low.isLt
  omega

theorem getHalf_big (first second : Byte) :
    getHalf .big first second = BitVec.ofNat 16 (256 * first.toNat + second.toNat) := append_eq_ofNat first second

theorem getHalf_little (first second : Byte) :
    getHalf .little first second = BitVec.ofNat 16 (256 * second.toNat + first.toNat) := append_eq_ofNat second first

/-- A frame of 8 bytes or more, of whatever length, decodes to its four header fields and the rest. -/
theorem decodeFrame_of_length {o : HdrOrder} {frame : List Byte} (h : 8 ≤ frame.length) :
    decodeFrame o frame = some
      { src := getHalf o (frame.getD 0 0#8) (frame.getD 1 0#8)
        dst := getHalf o (frame.getD 2 0#8) (frame.getD 3 0#8)
        pid := getHalf o (frame.getD 4 0#8) (frame.getD 5 0#8)
        kind := getHalf o (frame.getD 6 0#8) (frame.getD 7 0#8)
        payload := frame.drop 8 } := by
  rcases hd : decodeFrame o frame with _ | ⟨src, dst, pid, kind, payload⟩
  · exact absurd (decodeFrame_eq_none.mp hd) (Nat.not_lt.mpr h)
  · obtain ⟨-, rfl, rfl, rfl, rfl, rfl⟩ := decodeFrame_eq_some hd
    rfl

/-! ### Rounding and the RSSI (R103, R104) -/

/-- `roundNearest num den` is within half of `num / den`; only the upper bound can be met, which is the tie. -/
theorem roundNearest_bounds (num : Nat) {den : Nat} (h : 0 < den) :
    2 * num < 2 * (den * roundNearest num den) + den ∧ 2 * (den * roundNearest num den) ≤ 2 * num + den := by
  have hdivMod : 2 * den * roundNearest num den + (2 * num + den) % (2 * den) = 2 * num + den :=
    Nat.div_add_mod (2 * num + den) (2 * den)
  have hrem : (2 * num + den) % (2 * den) < 2 * den := Nat.mod_lt _ (by omega)
  rw [Nat.mul_assoc] at hdivMod
  omega

/-- With an odd denominator there is no tie (R104). -/
theorem roundNearest_lt_of_odd {num den : Nat} (h : den % 2 = 1) :
    2 * (den * roundNearest num den) < 2 * num + den := by
  have hle := (roundNearest_bounds num (den := den) (by omega)).2
  omega

theorem rssiC_of_neg {snr : Int} (h : snr < 0) (raw : Nat) : rssiC snr raw = -15700 + 100 * raw + 25 * snr := if_pos h

theorem rssiC_of_nonneg {snr : Int} (h : 0 ≤ snr) (raw : Nat) :
    rssiC snr raw = -15700 + roundNearest (1600 * raw) 15 := if_neg (Int.not_lt.mpr h)

theorem rssiC_range_of_neg {snr raw : Byte} (h : snr.toInt < 0) :
    -18900 ≤ rssiC snr.toInt raw.toNat ∧ rssiC snr.toInt raw.toNat ≤ 9775 := by
  have hsnr : -128 ≤ snr.toInt := snr.le_toInt
  have hraw := raw.isLt
  rw [rssiC_of_neg h]
  omega

/-- The distance from the exact value -15700 + 1600 raw / 15, in thirtieths of a hundredth. -/
theorem rssiC_nearest_of_nonneg {snr : Int} (h : 0 ≤ snr) (raw : Nat) :
    -15 < 2 * (15 * (rssiC snr raw + 15700) - 1600 * (raw : Int)) ∧
      2 * (15 * (rssiC snr raw + 15700) - 1600 * (raw : Int)) < 15 := by
  have hlow := (roundNearest_bounds (1600 * raw) (den := 15) (by decide)).1
  have hhigh := roundNearest_lt_of_odd (num := 1600 * raw) (den := 15) (by decide)
  rw [rssiC_of_nonneg h]
  omega

theorem rssiC_range_of_nonneg {snr : Int} (h : 0 ≤ snr) (raw : Byte) :
    -15700 ≤ rssiC snr raw.toNat ∧ rssiC snr raw.toNat ≤ 11500 := by
  have hnearest := rssiC_nearest_of_nonneg h raw.toNat
  have hraw := raw.isLt
  omega

/-- Every RSSI fits the 16 bits it is reported in (R105). -/
theorem toInt_ofInt_rssiC (snr raw : Byte) :
    (BitVec.ofInt 16 (rssiC snr.toInt raw.toNat)).toInt = rssiC snr.toInt raw.toNat := by
  have hrange : -18900 ≤ rssiC snr.toInt raw.toNat ∧ rssiC snr.toInt raw.toNat ≤ 11500 := by
    rcases Int.lt_or_le snr.toInt 0 with hneg | hnonneg
    · have := rssiC_range_of_neg (raw := raw) hneg
      omega
    · have := rssiC_range_of_nonneg hnonneg raw
      omega
  exact BitVec.toInt_ofInt_eq_self (by decide) (by norm_num; omega) (by norm_num; omega)

end Sys2Proof.Machine

namespace Sys2Proof.Proofs

open Sys2Proof.Machine

/-- Settles O49: below 8 bytes nothing decodes; from 8 on, each field is the number of its two bytes in the header's
order. -/
theorem decodeFailsOnlyOnShortFrames : Obligations.DecodeFailsOnlyOnShortFrames := by
  intro o frame byte field
  have getHalf_eq_field (i : Nat) : getHalf o (frame.getD i 0#8) (frame.getD (i + 1) 0#8) = field i := by
    cases o
    case big => exact getHalf_big _ _
    case little => exact getHalf_little _ _
  rcases Nat.lt_or_ge frame.length 8 with hshort | hlong
  · rw [if_pos hshort]
    exact decodeFrame_eq_none.mpr hshort
  · rw [if_neg (Nat.not_lt.mpr hlong), decodeFrame_of_length hlong]
    simp only [getHalf_eq_field]

/-- Settles O50: the report is exact because both branches stay within 16 bits, and the rounding is strict because 15 is
odd. -/
theorem rssiIsTheNearestHundredth : Obligations.RssiIsTheNearestHundredth := by
  refine ⟨fun s => toInt_ofInt_rssiC s.radio.snrRaw s.radio.rssiRaw, fun snr raw => ⟨fun hneg => ?_, fun hnonneg => ?_⟩⟩
  · exact ⟨rssiC_of_neg hneg raw.toNat, rssiC_range_of_neg hneg⟩
  · obtain ⟨habove, hbelow⟩ := rssiC_nearest_of_nonneg hnonneg raw.toNat
    exact ⟨habove, hbelow, rssiC_range_of_nonneg hnonneg raw⟩

end Sys2Proof.Proofs
end

section
/-! SUPPORT. The carrier of a frequency (R108): the quotient, the exact threshold below which it stays, and the entry into
RXC that faults on one of 2^24 or more; with the settling of the statement of 42_hop_synchronizer.md. -/

namespace Sys2Proof.Machine

open Sys2Proof.Claims

/-! ### The quotient (R108) -/

/-- With a crystal, `frf_of` is the quotient of R108 and no free value. -/
theorem frfOf_eq_div {cfg : Config} (hx : 0 < cfg.fxosc) (f : Nat) : frfOf cfg f = f * 2 ^ 19 / cfg.fxosc := by
  rw [frfOf, if_neg hx.ne', Nat.mul_comm]

/-- A carrier lies below a limit exactly when the frequency lies below the limit's. -/
theorem frfOf_lt_iff {cfg : Config} (hx : 0 < cfg.fxosc) (f limit : Nat) :
    frfOf cfg f < limit ↔ f * 2 ^ 19 < limit * cfg.fxosc := by
  rw [frfOf_eq_div hx, Nat.div_lt_iff_lt_mul hx]

theorem frfOf_mul_le {cfg : Config} (hx : 0 < cfg.fxosc) (f : Nat) : frfOf cfg f * cfg.fxosc ≤ f * 2 ^ 19 := by
  rw [frfOf_eq_div hx]
  exact Nat.div_mul_le_self _ _

/-- At 32 MHz the carriers that fit 24 bits are those of frequencies below 1 024 000 000 Hz. -/
theorem frfOf_fits_iff {cfg : Config} (hx : cfg.fxosc = 32000000) (f : Nat) :
    frfOf cfg f < 2 ^ 24 ↔ f ≤ 1023999999 := by
  rw [frfOf_lt_iff (by omega), hx]
  omega

/-! ### The entry into RXC that does not tune (R91, R107) -/

/-- Where resync fails, MODE.RXC ends with its fault: no routing and no mode write. -/
theorem exec_modeRxc_of_resyncFails {s : State} {c : PeFault} (hidle : idleForHost s) (hmode : s.mode ≠ some .rxc)
    (hfails : resyncFails s c) : exec .modeRxc s = .next (faulted c (hopRead s)) := by
  have hset : hostSetMode .rxc s = .ended (faulted c (hopRead s)) :=
    (hostSetMode_idle hidle (by decide)).trans (setMode_rxc_ended hmode (resync_of_fails hfails))
  exact congrArg Flow.outcome hset

end Sys2Proof.Machine

namespace Sys2Proof.Proofs

open Sys2Proof.Machine Sys2Proof.Claims

/-- Settles O25: the floor and the threshold are the two sides of one division, and the entry on 1 100 000 000 Hz faults
because that frequency is above the threshold. -/
theorem carrierIsTheFloor : Obligations.CarrierIsTheFloor := by
  refine ⟨fun cfg f hx => ?floor, fun cfg hx => ?listed, fun s hidle hmode hx hentry => ?faults⟩
  case floor => exact ⟨frfOf_mul_le hx f, (frfOf_lt_iff hx f _).mp (Nat.lt_succ_self _)⟩
  case listed =>
    have hdiv (f : Nat) : frfOf cfg f = f * 2 ^ 19 / 32000000 := by rw [frfOf_eq_div (by omega), hx]
    exact ⟨hdiv _, hdiv _, hdiv _, hdiv _, hdiv _, frfOf_fits_iff hx⟩
  case faults =>
    have hover : 16777216 ≤ steps s 1100000000#32 := by
      rw [← frfOf_eq_steps]
      exact Nat.le_of_not_lt fun hlt => absurd ((frfOf_fits_iff hx _).mp hlt) (by decide)
    exact exec_modeRxc_of_resyncFails hidle hmode (.inr ⟨_, hentry, hover, rfl⟩)

end Sys2Proof.Proofs
end

section
/-! SUPPORT. The operations of 43_protocol_engine.md that touch no radio register: the TxDone of a frame that asks for no
answer (R121, R122), the final expiry (R134) and EVQ.POP with the dispatch it releases (R136, R149); with the settling of
the three statements on them. -/

namespace Sys2Proof.Machine

open Sys2Proof.Claims

/-! ### The end of a transmission (R121, R122) -/

/-- IRQ.TXDONE with an Acknowledge or a Broadcast in flight runs the body their two handlers share. -/
theorem exec_irqTxdone_of_oneWay {s : State} (hk : s.curKind = some .ack ∨ s.curKind = some .bcast) (snap : Byte) :
    exec (.irqTxdone snap) s = .next (finishTransmit { s with snap := snap }) := by
  rcases execIrqTxdone_cases snap s with ⟨hreq, -⟩ | ⟨-, he⟩ | ⟨hnone, -⟩
  · simp [hreq] at hk
  · exact he
  · simp [hnone] at hk

/-- IRQ.TXDONE with nothing in flight only logs its snapshot. -/
theorem exec_irqTxdone_of_none {s : State} (hk : s.curKind = none) (snap : Byte) :
    exec (.irqTxdone snap) s = .next (logged .spuriousTxdone snap.toNat { s with snap := snap }) := by
  rcases execIrqTxdone_cases snap s with ⟨hreq, -⟩ | ⟨hsent, -⟩ | ⟨-, he⟩
  · simp [hk] at hreq
  · simp [hk] at hsent
  · exact he

/-! ### The event queue (R136) -/

/-- EVQ.POP in one equation: the queue's tail, and nothing else. -/
theorem exec_evqPop (s : State) : exec .evqPop s = .next { s with evq := s.evq.tail } := rfl

/-- Popping an empty queue leaves the whole state as it is (decision D37). -/
theorem exec_evqPop_nil {s : State} (hq : s.evq = []) : exec .evqPop s = .next s := by
  rw [exec_evqPop, hq, List.tail_nil, ← hq]

theorem exec_evqPop_cons {s : State} {r : EvRecord} {q : List EvRecord} (hq : s.evq = r :: q) :
    exec .evqPop s = .next { s with evq := q } := by
  rw [exec_evqPop, hq, List.tail_cons]

/-- With no fault set, an 8-bit write at EVQ_POP's offset selects EVQ.POP, whatever the value (R74). -/
theorem fetch_evqPop {s : State} (hf : s.fault = .clear) (v : Byte) :
    fetch (.write8 0x012#10 v) s = .operation .evqPop s := if_pos hf

/-- With an edge pending and no fault set, room in the queue decides whether a dispatch is enabled (R149). -/
theorem dispatchEnabled_of_edge {l : Line} {s : State} (he : s.edge l = true) (hf : s.fault = .clear) :
    dispatchEnabled l s = decide (s.evq.length < s.cfg.qdepth) := by
  simp [dispatchEnabled, he, hf]

end Sys2Proof.Machine

namespace Sys2Proof.Proofs

open Sys2Proof.Machine Sys2Proof.Claims

/-- Settles O34: both handlers, and the dispatch branch that reaches them, are `finishTransmit`. -/
theorem txdoneOfAckOrBroadcastFreesTheNode : Obligations.TxdoneOfAckOrBroadcastFreesTheNode := by
  intro s snap low after
  have hfinish (u : State) : Host.Outcome.next (finishTransmit u) = (.next (after u) : Result) :=
    congrArg Host.Outcome.next (finishTransmit_eq u)
  refine ⟨rfl, rfl, rfl, hfinish s, hfinish s, fun hk => ?sent, rfl, fun hk => ?spurious⟩
  case sent => exact (exec_irqTxdone_of_oneWay hk snap).trans (hfinish _)
  case spurious => exact exec_irqTxdone_of_none hk snap

/-- Settles O45: a pop is the tail of the queue, and the slot it frees is what a full queue's dispatch waits for. -/
theorem popRemovesTheHead : Obligations.PopRemovesTheHead := by
  refine ⟨fun s => exec_evqPop_nil, fun s r q => exec_evqPop_cons, fun s v rest hs hf => ?step,
    fun s t l hfull hdepth he hf hpop => ?released⟩
  case step =>
    have hfetch := fetch_evqPop (s := { s with script := rest }) hf v
    rw [step_cons hs, hfetch, List.drop_one]
    exact exec_evqPop _
  case released =>
    obtain rfl : { s with evq := s.evq.tail } = t := Host.Outcome.next.inj ((exec_evqPop s).symm.trans hpop)
    have hroom : s.evq.tail.length < s.cfg.qdepth := by rw [List.length_tail]; omega
    exact ⟨(dispatchEnabled_of_edge he hf).trans (decide_eq_false hfull.not_lt),
      (dispatchEnabled_of_edge (s := { s with evq := s.evq.tail }) he hf).trans (decide_eq_true hroom)⟩

/-- Settles O44: TIMER.FINAL has no branch, so its body is the whole next state; no mode write is among its updates. -/
theorem finalExpiryAbandonsTheRequest : Obligations.FinalExpiryAbandonsTheRequest :=
  ⟨fun _ => rfl, fun _ => rfl⟩

end Sys2Proof.Proofs
end

section
/-! SUPPORT. The two dispatch branches without a frame (R144, R145): which snapshots select them at any bit positions, the
opcode table's mask at the defaults of R65, and what IRQ.HOP does in each mode; with the settling of the statements of
44_interrupt_dispatcher.md. -/

namespace Sys2Proof

/-! ### The selecting bits (R65, R75) -/

/-- IRQ.HOP comes third: the two bits before its own have to be clear. -/
theorem decodeIrq_eq_irqHop_iff (b : IrqBits) (snap : Byte) :
    decodeIrq b snap = .irqHop snap ↔
      snap.getLsbD b.txDone = false ∧ snap.getLsbD b.rxDone = false ∧ snap.getLsbD b.hop = true := by
  unfold decodeIrq
  generalize snap.getLsbD b.txDone = tx, snap.getLsbD b.rxDone = rx, snap.getLsbD b.hop = hop
  cases tx with
  | true => simp
  | false =>
    cases rx with
    | true => simp
    | false => cases hop <;> simp

/-- IRQ.NONE is what is left when no selecting bit is set. -/
theorem decodeIrq_eq_irqNone_iff (b : IrqBits) (snap : Byte) :
    decodeIrq b snap = .irqNone snap ↔
      snap.getLsbD b.txDone = false ∧ snap.getLsbD b.rxDone = false ∧ snap.getLsbD b.hop = false := by
  unfold decodeIrq
  generalize snap.getLsbD b.txDone = tx, snap.getLsbD b.rxDone = rx, snap.getLsbD b.hop = hop
  cases tx with
  | true => simp
  | false =>
    cases rx with
    | true => simp
    | false => cases hop <;> simp

/-- The opcode table's mask 0x4A keeps the three selecting bits at the defaults of R65, and only those. -/
theorem and_0x4A_eq_iff (x v : Byte) :
    x &&& 0x4A#8 = v &&& 0x4A#8 ↔
      x.getLsbD IrqBits.default.txDone = v.getLsbD IrqBits.default.txDone ∧
        x.getLsbD IrqBits.default.rxDone = v.getLsbD IrqBits.default.rxDone ∧
          x.getLsbD IrqBits.default.hop = v.getLsbD IrqBits.default.hop := by
  change _ ↔ x.getLsbD 3 = v.getLsbD 3 ∧ x.getLsbD 6 = v.getLsbD 6 ∧ x.getLsbD 1 = v.getLsbD 1
  constructor
  case mp =>
    intro h
    have bit (i : Nat) (hi : (0x4A#8).getLsbD i = true) : x.getLsbD i = v.getLsbD i := by
      simpa only [BitVec.getLsbD_and, hi, Bool.and_true] using congrArg (BitVec.getLsbD · i) h
    exact ⟨bit 3 rfl, bit 6 rfl, bit 1 rfl⟩
  case mpr =>
    rintro ⟨h3, h6, h1⟩
    apply BitVec.eq_of_getLsbD_eq
    intro i hi
    rw [BitVec.getLsbD_and, BitVec.getLsbD_and]
    have kept : ∀ i < 8, (0x4A#8).getLsbD i = true → i = 1 ∨ i = 3 ∨ i = 6 := by decide
    cases hmask : (0x4A#8).getLsbD i with
    | false => rw [Bool.and_false, Bool.and_false]
    | true =>
      obtain rfl | rfl | rfl := kept i hi hmask
      · rw [h1]
      · rw [h3]
      · rw [h6]

end Sys2Proof

namespace Sys2Proof.Machine

open Sys2Proof.Claims

/-! ### IRQ.HOP (R144) -/

theorem State.active_iff (s : State) : s.active = true ↔ s.mode = some .tx ∨ s.mode = some .rxc := by
  rw [State.active, Bool.or_eq_true, decide_eq_true_iff, decide_eq_true_iff]

/-- Where hops are followed, IRQ.HOP is resync and nothing more. -/
theorem exec_irqHop_of_active {s : State} (h : s.mode = some .tx ∨ s.mode = some .rxc) (snap : Byte) :
    exec (.irqHop snap) s = (resync { s with snap := snap }).outcome :=
  if_pos (s.active_iff.mpr h)

theorem exec_irqHop_of_inactive {s : State} (htx : s.mode ≠ some .tx) (hrxc : s.mode ≠ some .rxc) (snap : Byte) :
    exec (.irqHop snap) s = .next { s with snap := snap } :=
  if_neg fun h => (s.active_iff.mp h).elim htx hrxc

theorem exec_irqHop_of_tunable {s : State} {f : BitVec 32} (h : s.mode = some .tx ∨ s.mode = some .rxc)
    (hf : tunable s f) (snap : Byte) : exec (.irqHop snap) s = .next (tuned f { s with snap := snap }) := by
  have hf' : tunable { s with snap := snap } f := (tunable_congr rfl rfl).mpr hf
  exact (exec_irqHop_of_active h snap).trans (congrArg Flow.outcome (resync_of_tunable hf'))

theorem exec_irqHop_of_resyncFails {s : State} {c : PeFault} (h : s.mode = some .tx ∨ s.mode = some .rxc)
    (hc : resyncFails s c) (snap : Byte) :
    exec (.irqHop snap) s = .next (faulted c (hopRead { s with snap := snap })) := by
  have hc' : resyncFails { s with snap := snap } c := (resyncFails_congr rfl rfl).mpr hc
  exact (exec_irqHop_of_active h snap).trans (congrArg Flow.outcome (resync_of_fails hc'))

end Sys2Proof.Machine

namespace Sys2Proof.Proofs

open Sys2Proof.Machine Sys2Proof.Claims

/-- Settles O41: the table's row is the third branch of the decoder, and the operation is resync behind its test of the
mode. -/
theorem hopIsFollowedOnlyWhileActive : Obligations.HopIsFollowedOnlyWhileActive := by
  refine fun s snap => ⟨?selected, fun hactive => ⟨fun f hf => ?followed, fun hnone => ?unwritten, fun f hf hover => ?overflow⟩,
    fun htx hrxc => exec_irqHop_of_inactive htx hrxc snap⟩
  case selected =>
    rw [decode, Except.ok.injEq, decodeIrq_eq_irqHop_iff]
    exact (and_0x4A_eq_iff snap 0x02#8).symm
  case followed => exact exec_irqHop_of_tunable hactive hf snap
  case unwritten => exact exec_irqHop_of_resyncFails hactive (.inl ⟨hnone, rfl⟩) snap
  case overflow => exact exec_irqHop_of_resyncFails hactive (.inr ⟨f, hf, hover, rfl⟩) snap

/-- Settles O42: the table's row is the decoder's last branch, and the operation has no branch of its own, so its body is
the whole next state. -/
theorem unrecognisedFlagsAreLogged : Obligations.UnrecognisedFlagsAreLogged := by
  refine fun s snap => ⟨?selected, rfl⟩
  rw [decode, Except.ok.injEq, decodeIrq_eq_irqNone_iff]
  exact (and_0x4A_eq_iff snap 0x00#8).symm

end Sys2Proof.Proofs
end

section
/-! SUPPORT. The checks the three sends share, in their order: send_check, then the payload size (R115, R152); with the
settling of the statement of 60_exceptions.md on the oversize payload. -/

namespace Sys2Proof.Machine

open Sys2Proof.Claims

/-! ### The checks before a send (R113, R115 to R117, R152) -/

/-- The three sends differ only in what they do with a payload that fits. -/
theorem exec_of_mem_sendCommands {i : Instr} (hi : i ∈ sendCommands) :
    ∃ k : State → Flow, ∀ s, exec i s = ((sendCheck s).andThen (checkSize k)).outcome := by
  simp only [sendCommands, List.mem_cons, List.not_mem_nil, or_false] at hi
  obtain rfl | rfl | rfl := hi
  · exact ⟨fun s => acceptRequest (copyRequest s), fun _ => rfl⟩
  · exact ⟨sendOnce .ack, fun _ => rfl⟩
  · exact ⟨sendOnce .bcast, fun _ => rfl⟩

/-- A refused send is a caller error, whatever its payload's size. -/
theorem exec_send_of_refused {i : Instr} {s : State} (hi : i ∈ sendCommands) (h : ¬sendAccepted s) :
    exec i s = .next (faulted .callerError s) := by
  obtain ⟨k, hexec⟩ := exec_of_mem_sendCommands hi
  rw [hexec, sendCheck_refused h, Flow.andThen_ended, Flow.outcome_ended]

/-- An accepted send that is too long stops at the size check. -/
theorem exec_send_of_oversize {i : Instr} {s : State} (hi : i ∈ sendCommands) (h : sendAccepted s)
    (hp : 240 < s.plenReg.toNat) : exec i s = .next { s with result := .payloadTooLarge } := by
  obtain ⟨k, hexec⟩ := exec_of_mem_sendCommands hi
  rw [hexec, sendCheck_accepted h, Flow.andThen_run, checkSize_oversize k hp, Flow.outcome_run]

end Sys2Proof.Machine

namespace Sys2Proof.Proofs

open Sys2Proof.Machine

/-- Settles O27: the size check is the second of two; a send the first one refuses never reaches it. -/
theorem oversizePayloadOnlyRecordsResult : Obligations.OversizePayloadOnlyRecordsResult :=
  fun _ _ hi hp => ⟨fun h => exec_send_of_oversize hi h hp, fun h => exec_send_of_refused hi h⟩

end Sys2Proof.Proofs
end

section
/-! SUPPORT. Decoding and encoding agree, format by format (R61, R74 to R77): every selector that decodes is rebuilt from its
operation, and every well-formed operation comes back from its selector; with the settling of the statements of
30_encoding.md on the two, and of those that follow from the decoder alone. -/

namespace Sys2Proof

/-! ### Format CMD (R61) -/

theorem encode_of_decodeSend {w : Half} {i : Instr} (hop : w.toNat % 16 = 1) (h : decodeSend w = .ok i) (b : IrqBits) :
    encode i = .cmd w ∧ i.wellFormed b = true := by
  have hw : w.toNat < 65536 := w.isLt
  have rebuild (k : BitVec 2) (code : Half) (hhigh : w.extractLsb' 6 10 = 0#10) (hk : w.extractLsb' 4 2 = k)
      (hcode : code.toNat = 16 * k.toNat + 1) : Selector.cmd code = .cmd w := by
    rw [extractLsb'_eq_iff_toNat] at hhigh hk
    change w.toNat / 64 % 1024 = 0 at hhigh
    change w.toNat / 16 % 4 = k.toNat at hk
    exact congrArg Selector.cmd (BitVec.eq_of_toNat_eq (by omega))
  unfold decodeSend at h
  split at h
  case isTrue => cases h
  case isFalse hhigh =>
    rw [not_not] at hhigh
    iterate 3
      split at h
      next hk => cases h; exact ⟨rebuild _ _ hhigh hk rfl, rfl⟩
    cases h

theorem encode_of_decodeSetMode {w : Half} {i : Instr} (hop : w.toNat % 16 = 2) (h : decodeSetMode w = .ok i)
    (b : IrqBits) : encode i = .cmd w ∧ i.wellFormed b = true := by
  have hw : w.toNat < 65536 := w.isLt
  have rebuild (k : BitVec 3) (code : Half) (hhigh : w.extractLsb' 7 9 = 0#9) (hk : w.extractLsb' 4 3 = k)
      (hcode : code.toNat = 16 * k.toNat + 2) : Selector.cmd code = .cmd w := by
    rw [extractLsb'_eq_iff_toNat] at hhigh hk
    change w.toNat / 128 % 512 = 0 at hhigh
    change w.toNat / 16 % 8 = k.toNat at hk
    exact congrArg Selector.cmd (BitVec.eq_of_toNat_eq (by omega))
  unfold decodeSetMode at h
  split at h
  case isTrue => cases h
  case isFalse hhigh =>
    rw [not_not] at hhigh
    iterate 6
      split at h
      next hk => cases h; exact ⟨rebuild _ _ hhigh hk rfl, rfl⟩
    cases h

theorem encode_of_decodeCmd {w : Half} {i : Instr} (h : decodeCmd w = .ok i) (b : IrqBits) :
    encode i = .cmd w ∧ i.wellFormed b = true := by
  have op (k : BitVec 4) : w.extractLsb' 0 4 = k ↔ w.toNat % 16 = k.toNat := by
    rw [extractLsb'_eq_iff_toNat, pow_zero, Nat.div_one]; rfl
  unfold decodeCmd at h
  split at h
  next hop => exact encode_of_decodeSend ((op _).mp hop) h b
  split at h
  next hop => exact encode_of_decodeSetMode ((op _).mp hop) h b
  cases h

/-! ### Format IRQ (R75) -/

theorem encode_decodeIrq (b : IrqBits) (snap : Byte) :
    encode (decodeIrq b snap) = .irq snap ∧ (decodeIrq b snap).wellFormed b = true := by
  unfold decodeIrq
  split
  next htx => exact ⟨rfl, htx⟩
  next htx =>
    rw [Bool.not_eq_true] at htx
    split
    next hrx => exact ⟨rfl, by rw [Instr.wellFormed, htx, hrx]; rfl⟩
    next hrx =>
      rw [Bool.not_eq_true] at hrx
      split
      next hhop => exact ⟨rfl, by rw [Instr.wellFormed, htx, hrx, hhop]; rfl⟩
      next hhop =>
        rw [Bool.not_eq_true] at hhop
        exact ⟨rfl, by rw [Instr.wellFormed, htx, hrx, hhop]; rfl⟩

/-- Decoding reads the selecting bits in the order in which well-formedness names them. -/
theorem decodeIrq_of_wellFormed {b : IrqBits} {snap : Byte} {i : Instr} (hi : encode i = .irq snap)
    (hw : i.wellFormed b = true) : decodeIrq b snap = i := by
  unfold decodeIrq
  cases i <;> cases hi
  all_goals
    simp only [Instr.wellFormed, Bool.and_eq_true, Bool.not_eq_true'] at hw
    simp only [hw, if_true, Bool.false_eq_true, if_false]

/-! ### Format RXSEL (R76) -/

/-- The flag bit of RX.CRCERR and RX.SHORT stands above the operand bits. -/
theorem getLsbD_flag_or {n : Nat} (hn : n < 18) (low : BitVec n) (j : Nat) :
    (BitVec.twoPow 18 n ||| low.setWidth 18).getLsbD j = (decide (j = n) || low.getLsbD j) := by
  by_cases hj : j < 18
  · simp only [BitVec.getLsbD_or, BitVec.getLsbD_twoPow, BitVec.getLsbD_setWidth, hn, hj, decide_true, Bool.true_and,
      eq_comm]
  · have hlow : low.getLsbD j = false := BitVec.getLsbD_of_ge low j (by omega)
    rw [BitVec.getLsbD_of_ge _ j (by omega), hlow]
    simp; omega

/-- The operand bits below the flag come back. -/
theorem extractLsb'_flag_or {n : Nat} (hn : n < 18) (low : BitVec n) :
    (BitVec.twoPow 18 n ||| low.setWidth 18).extractLsb' 0 n = low := by
  apply BitVec.eq_of_getLsbD_eq
  intro j hj
  rw [BitVec.getLsbD_extractLsb', Nat.zero_add, getLsbD_flag_or hn]
  simp [hj, Nat.ne_of_lt hj]

/-- A selector whose highest set bit is n is that flag over its low n bits. -/
theorem flag_or_extractLsb' {n : Nat} (hn : n < 18) {sel : BitVec 18} (hset : sel.getLsbD n = true)
    (habove : ∀ j, n < j → sel.getLsbD j = false) :
    BitVec.twoPow 18 n ||| (sel.extractLsb' 0 n).setWidth 18 = sel := by
  apply BitVec.eq_of_getLsbD_eq
  intro j _
  rw [getLsbD_flag_or hn, BitVec.getLsbD_extractLsb', Nat.zero_add]
  rcases Nat.lt_trichotomy j n with hj | rfl | hj
  · simp [hj, Nat.ne_of_lt hj]
  · simp [hset]
  · simp [habove j hj, hj.ne', Nat.not_lt.mpr hj.le]

/-- With both flag bits clear a selector is its low 16 bits. -/
theorem setWidth_extractLsb'_of_flags_clear {sel : BitVec 18} (h17 : sel.getLsbD 17 = false)
    (h16 : sel.getLsbD 16 = false) : (sel.extractLsb' 0 16).setWidth 18 = sel := by
  apply BitVec.eq_of_getLsbD_eq
  intro j hj
  rw [BitVec.getLsbD_setWidth, BitVec.getLsbD_extractLsb', Nat.zero_add]
  have hcase : j < 16 ∨ j = 16 ∨ j = 17 := by omega
  obtain hlow | rfl | rfl := hcase
  · simp [hj, hlow]
  · rw [h16]; rfl
  · rw [h17]; rfl

/-- A kind other than 0, 1 and 2 is 3 or more (R130). -/
theorem three_le_of_unsupported {kind : Half} (h0 : kind ≠ 0#16) (h1 : kind ≠ 1#16) (h2 : kind ≠ 2#16) :
    3 ≤ kind.toNat := by
  rw [ne_eq, ← BitVec.toNat_inj] at h0 h1 h2
  simp only [BitVec.toNat_ofNat] at h0 h1 h2
  omega

theorem encode_decodeRxSel (b : IrqBits) (sel : BitVec 18) :
    encode (decodeRxSel sel) = .rxSel sel ∧ (decodeRxSel sel).wellFormed b = true := by
  unfold decodeRxSel
  split
  next h17 =>
    have habove (j : Nat) (hj : 17 < j) : sel.getLsbD j = false := BitVec.getLsbD_of_ge sel j (by omega)
    exact ⟨congrArg Selector.rxSel (flag_or_extractLsb' (by decide) h17 habove), rfl⟩
  next h17 =>
    have h17' : sel.getLsbD 17 = false := by simpa using h17
    split
    next h16 =>
      have habove (j : Nat) (hj : 16 < j) : sel.getLsbD j = false := by
        rcases Nat.lt_or_ge 17 j with hj' | hj'
        · exact BitVec.getLsbD_of_ge sel j (by omega)
        · obtain rfl : j = 17 := by omega
          exact h17'
      exact ⟨congrArg Selector.rxSel (flag_or_extractLsb' (by decide) h16 habove), rfl⟩
    next h16 =>
      have h16' : sel.getLsbD 16 = false := by simpa using h16
      have rebuild := setWidth_extractLsb'_of_flags_clear h17' h16'
      have known (k : Half) (h : sel.extractLsb' 0 16 = k) : Selector.rxSel (k.setWidth 18) = .rxSel sel := by
        rw [← h, rebuild]
      split
      next h0 => exact ⟨known _ h0, rfl⟩
      next h0 =>
        split
        next h1 => exact ⟨known _ h1, rfl⟩
        next h1 =>
          split
          next h2 => exact ⟨known _ h2, rfl⟩
          next h2 => exact ⟨congrArg Selector.rxSel rebuild, decide_eq_true (three_le_of_unsupported h0 h1 h2)⟩

theorem decodeRxSel_rxCrcerr (low : BitVec 17) : decodeRxSel (0x20000#18 ||| low.setWidth 18) = .rxCrcerr low := by
  have h17 := getLsbD_flag_or (by decide) low 17
  exact (if_pos h17).trans (congrArg Instr.rxCrcerr (extractLsb'_flag_or (by decide) low))

theorem decodeRxSel_rxShort (low : Half) : decodeRxSel (0x10000#18 ||| low.setWidth 18) = .rxShort low := by
  have h17 : ¬(0x10000#18 ||| low.setWidth 18).getLsbD 17 = true := by
    have h := getLsbD_flag_or (by decide) low 17
    rw [BitVec.getLsbD_of_ge low 17 (by decide)] at h
    exact Bool.eq_false_iff.mp h
  have h16 := getLsbD_flag_or (by decide) low 16
  exact (if_neg h17).trans ((if_pos h16).trans (congrArg Instr.rxShort (extractLsb'_flag_or (by decide) low)))

/-- With both flag bits clear the 16-bit kind decides. -/
theorem decodeRxSel_kind (kind : Half) : decodeRxSel (kind.setWidth 18) =
    if kind = 0#16 then .rxReq else if kind = 1#16 then .rxAck else if kind = 2#16 then .rxBcast
    else .rxUnsupported kind := by
  have h17 : (kind.setWidth 18)[17] = false := by simp
  have h16 : (kind.setWidth 18)[16] = false := by simp
  have hlow : (kind.setWidth 18).extractLsb' 0 16 = kind := by
    apply BitVec.eq_of_getLsbD_eq
    intro j hj
    simp [hj, BitVec.getLsbD_setWidth]
    omega
  simp only [decodeRxSel, h17, h16, hlow, Bool.false_eq_true, if_false]

/-! ### Format CURKIND (R77) -/

theorem encode_of_decodeCurKind {k : BitVec 3} {i : Instr} (h : decodeCurKind k = .ok i) (b : IrqBits) :
    encode i = .curKind k ∧ i.wellFormed b = true := by
  have none_sent : ∀ k : BitVec 3, k[2] = false → (k.extractLsb' 0 2).setWidth 3 = k := by decide
  have sent : ∀ (k : BitVec 3) (kind : BitVec 2), k[2] = true → k.extractLsb' 0 2 = kind → 1#1 ++ kind = k := by decide
  unfold decodeCurKind at h
  split at h
  next hk =>
    cases h
    exact ⟨congrArg Selector.curKind (none_sent k (by simpa using hk)), rfl⟩
  next hk =>
    have hset : k[2] = true := by simpa using hk
    iterate 3
      split at h
      next hkind => cases h; exact ⟨congrArg Selector.curKind (sent k _ hset hkind), rfl⟩
    cases h

theorem decodeCurKind_txdoneNone (low : BitVec 2) : decodeCurKind (low.setWidth 3) = .ok (.txdoneNone low) := by
  revert low; decide

/-! ### All formats -/

theorem decode_of_encode (b : IrqBits) (i : Instr) (hw : i.wellFormed b = true) : decode b (encode i) = .ok i := by
  cases i with
  | irqTxdone snap => exact congrArg Except.ok (decodeIrq_of_wellFormed rfl hw)
  | irqRxdone snap => exact congrArg Except.ok (decodeIrq_of_wellFormed rfl hw)
  | irqHop snap => exact congrArg Except.ok (decodeIrq_of_wellFormed rfl hw)
  | irqNone snap => exact congrArg Except.ok (decodeIrq_of_wellFormed rfl hw)
  | rxCrcerr low => exact congrArg Except.ok (decodeRxSel_rxCrcerr low)
  | rxShort low => exact congrArg Except.ok (decodeRxSel_rxShort low)
  | rxUnsupported kind =>
    have h3 : 3 ≤ kind.toNat := of_decide_eq_true hw
    have hne (n : Nat) (hn : n < 3) : kind ≠ BitVec.ofNat 16 n := by
      rintro rfl
      rw [BitVec.toNat_ofNat] at h3
      omega
    refine congrArg Except.ok ((decodeRxSel_kind kind).trans ?_)
    rw [if_neg (hne 0 (by decide)), if_neg (hne 1 (by decide)), if_neg (hne 2 (by decide))]
  | txdoneNone low => exact decodeCurKind_txdoneNone low
  | sendReq | sendAck | sendBcast | modeSleep | modeStdby | modeTx | modeRxc | modeRxs | modeCad => rfl
  | evqPop | rxReq | rxAck | rxBcast | txdoneReq | txdoneAck | txdoneBcast | timerRetry | timerFinal => rfl

theorem encode_of_decode {b : IrqBits} {sel : Selector} {i : Instr} (h : decode b sel = .ok i) :
    encode i = sel ∧ i.wellFormed b = true := by
  cases sel with
  | cmd w => exact encode_of_decodeCmd h b
  | hostReg offset =>
    rw [decode, decodeHostReg] at h
    split at h
    next ho => cases h; exact ⟨congrArg Selector.hostReg ho.symm, rfl⟩
    next => cases h
  | irq snap => cases h; exact encode_decodeIrq b snap
  | rxSel sel => cases h; exact encode_decodeRxSel b sel
  | curKind k => exact encode_of_decodeCurKind h b
  | timer final =>
    have all : ∀ final : BitVec 1, encode (decodeTimer final) = .timer final := by decide
    cases h
    refine ⟨all final, ?_⟩
    unfold decodeTimer
    split <;> rfl

/-- The operations a CMD word can select (R74). -/
def cmdOperations : List Instr :=
  [.sendReq, .sendAck, .sendBcast, .modeSleep, .modeStdby, .modeTx, .modeRxc, .modeRxs, .modeCad]

theorem mem_cmdOperations_of_decode {b : IrqBits} {w : Half} {i : Instr} (h : decode b (.cmd w) = .ok i) :
    i ∈ cmdOperations := by
  obtain ⟨henc, -⟩ := encode_of_decode h
  cases i with
  | sendReq | sendAck | sendBcast | modeSleep | modeStdby | modeTx | modeRxc | modeRxs | modeCad => simp [cmdOperations]
  | _ => cases henc

end Sys2Proof

namespace Sys2Proof.Machine

open Sys2Proof.Claims

/-! ### The selectors the PE computes itself (R76, R77, R119, R123) -/

/-- The CURKIND selector of any state names a handler, and IRQ.TXDONE runs it. -/
theorem exec_irqTxdone_eq_handler (snap : Byte) (s : State) : ∃ h, decode s.cfg.irqBits (.curKind (curKindWord s)) = .ok h ∧
    exec (.irqTxdone snap) s = exec h { s with snap := snap } := by
  have hrun : exec (.irqTxdone snap) s = txdoneHandler { s with snap := snap } := rfl
  rcases hk : s.curKind with _ | _ | _ | _
  · exact ⟨.txdoneNone 0#2, by simp only [curKindWord, hk]; rfl, by simp only [hrun, txdoneHandler, hk]; rfl⟩
  · exact ⟨.txdoneReq, by simp only [curKindWord, hk]; rfl, by simp only [hrun, txdoneHandler, hk]; rfl⟩
  · exact ⟨.txdoneAck, by simp only [curKindWord, hk]; rfl, by simp only [hrun, txdoneHandler, hk]; rfl⟩
  · exact ⟨.txdoneBcast, by simp only [curKindWord, hk]; rfl, by simp only [hrun, txdoneHandler, hk]; rfl⟩

/-- A CRC error decides before the frame is read. -/
theorem exec_irqRxdone_of_crcError {snap : Byte} {s : State} (hcrc : flagSet snap s.cfg.irqBits.crc = true)
    (low : BitVec 17) : exec (.irqRxdone snap) s = exec (.rxCrcerr low) { s with snap := snap } := by
  rw [flagSet_eq] at hcrc
  exact if_pos hcrc

/-- Without a CRC error the frame is read and handed on. -/
theorem exec_irqRxdone_of_crcClear {snap : Byte} {s : State} (hcrc : flagSet snap s.cfg.irqBits.crc = false) :
    exec (.irqRxdone snap) s = frameHandler (frameRead snap s) := by
  rw [flagSet_eq] at hcrc
  exact if_neg (Bool.eq_false_iff.mp hcrc)

theorem frameHandler_of_short {s : State} (h : s.radio.rxFrame.length < 8) (low : Half) :
    frameHandler s = exec (.rxShort low) s := by
  rw [frameHandler, decodeFrame_eq_none.mpr h]; rfl

/-- A frame with a header is handled by its 16-bit kind, as RXSEL decodes it. -/
theorem frameHandler_of_decoded {s : State} {p : Packet} (h : decodeFrame s.cfg.hdrOrder s.radio.rxFrame = some p) :
    frameHandler s = exec (decodeRxSel (p.kind.setWidth 18)) s := by
  have hbody : frameHandler s = if p.kind = 0#16 then execRxReq s else if p.kind = 1#16 then execRxAck s
      else if p.kind = 2#16 then execRxBcast s else execRxUnsupported p.kind s := by rw [frameHandler, h]
  rw [hbody, decodeRxSel_kind]
  split
  next => rfl
  next =>
    split
    next => rfl
    next => split <;> rfl

theorem frameRead_eq (snap : Byte) (s : State) :
    frameRead snap s = { s with snap := snap, trace := s.trace ++ [.fifoRead s.radio.rxFrame] } := rfl

/-- Below 8 bytes RXSEL is the word of RX.SHORT with no operand bit set. -/
theorem rxSelWord_of_short {snap : Byte} {s : State} (hcrc : flagSet snap s.cfg.irqBits.crc = false)
    (hlen : s.radio.rxFrame.length < 8) : rxSelWord snap s = 0x10000#18 := by
  rw [rxSelWord, hcrc, if_neg Bool.false_ne_true, if_pos hlen]

/-- From 8 bytes on RXSEL is the packet_kind of the decoded frame. -/
theorem rxSelWord_of_decoded {snap : Byte} {s : State} {p : Packet} (hcrc : flagSet snap s.cfg.irqBits.crc = false)
    (hp : decodeFrame s.cfg.hdrOrder s.radio.rxFrame = some p) : rxSelWord snap s = p.kind.setWidth 18 := by
  obtain ⟨hlen, -, -, -, -, hkind⟩ := decodeFrame_eq_some hp
  rw [rxSelWord, hcrc, if_neg Bool.false_ne_true, if_neg (Nat.not_lt.mpr hlen), hkind]

end Sys2Proof.Machine

namespace Sys2Proof.Proofs

open Sys2Proof.Machine Sys2Proof.Claims

/-- Settles O1, format by format: the operand bits of a row stand beside its fixed bits and come back unchanged. -/
theorem decodeOfEncode : Obligations.DecodeOfEncode := decode_of_encode

/-- Settles O2, format by format: the fixed bits a decoder branch tests and the operand bits it keeps are all there is. -/
theorem encodeOfDecode : Obligations.EncodeOfDecode := fun _ _ _ h => encode_of_decode h

/-- Settles O3: closed words. -/
theorem wordsOfEachFormatDecode : Obligations.WordsOfEachFormatDecode :=
  ⟨rfl, rfl, rfl, rfl, rfl, rfl, rfl, rfl, rfl⟩

/-- Settles O5: the decoder tests the three bits in this order. -/
theorem snapshotSelectsBranchByPriority : Obligations.SnapshotSelectsBranchByPriority := by
  refine ⟨fun b snap => ?_, rfl, rfl, rfl, rfl⟩
  simp only [flagSet_eq]
  rfl

/-- Settles O7. -/
theorem txdoneBranchRunsItsHandler : Obligations.TxdoneBranchRunsItsHandler := exec_irqTxdone_eq_handler

/-- Settles O8: with a CRC error the frame decides nothing; otherwise its length comes first and its kind second. -/
theorem rxdoneBranchRunsItsHandler : Obligations.RxdoneBranchRunsItsHandler := by
  intro snap s
  cases hcrc : flagSet snap s.cfg.irqBits.crc with
  | true =>
    refine ⟨_, rfl, ?_⟩
    by_cases hlen : s.radio.rxFrame.length < 8
    · simp only [rxSelWord, hcrc, hlen, if_true]
      exact exec_irqRxdone_of_crcError hcrc _
    · simp only [rxSelWord, hcrc, hlen, if_true, if_false]
      exact exec_irqRxdone_of_crcError hcrc _
  | false =>
    rw [exec_irqRxdone_of_crcClear hcrc, if_neg Bool.false_ne_true, ← frameRead_eq]
    rcases hp : decodeFrame s.cfg.hdrOrder s.radio.rxFrame with _ | p
    · have hlen := decodeFrame_eq_none.mp hp
      refine ⟨.rxShort 0#16, ?_, frameHandler_of_short (s := frameRead snap s) hlen 0#16⟩
      rw [rxSelWord_of_short hcrc hlen]
      exact congrArg Except.ok (decodeRxSel_rxShort 0#16)
    · refine ⟨_, rfl, ?_⟩
      rw [rxSelWord_of_decoded hcrc hp]
      exact frameHandler_of_decoded (s := frameRead snap s) hp

end Sys2Proof.Proofs
end

section
/-! SUPPORT. The packet codec's round trip (R98 to R100): a header field comes back from its two bytes in either order, a frame
from its header and payload; with the settling of the statement of 41_packet_codec.md on it. -/

namespace Sys2Proof.Machine

open Sys2Proof.Claims

/-- The two bytes `put_u16` writes are the ones `get_u16` joins (R71). -/
theorem putHalf_eq_pair (o : HdrOrder) (v : Half) : ∃ first second, putHalf o v = [first, second] ∧ getHalf o first second = v := by
  have join : v.extractLsb' 8 8 ++ v.extractLsb' 0 8 = v := by
    have hv : v.toNat < 65536 := v.isLt
    rw [append_eq_ofNat, BitVec.extractLsb'_toNat, BitVec.extractLsb'_toNat, Nat.shiftRight_eq_div_pow, Nat.shiftRight_zero]
    apply BitVec.eq_of_toNat_eq
    rw [BitVec.toNat_ofNat]
    omega
  cases o with
  | big => exact ⟨_, _, rfl, join⟩
  | little => exact ⟨_, _, rfl, join⟩

theorem headerBytes_length (o : HdrOrder) (src dst pid kind : Half) : (headerBytes o src dst pid kind).length = 8 := by
  cases o <;> rfl

theorem decodeFrame_headerBytes (o : HdrOrder) (src dst pid kind : Half) (payload : List Byte) :
    decodeFrame o (headerBytes o src dst pid kind ++ payload) = some ⟨src, dst, pid, kind, payload⟩ := by
  obtain ⟨s1, s2, hsrc, hs⟩ := putHalf_eq_pair o src
  obtain ⟨d1, d2, hdst, hd⟩ := putHalf_eq_pair o dst
  obtain ⟨p1, p2, hpid, hp⟩ := putHalf_eq_pair o pid
  obtain ⟨k1, k2, hkind, hk⟩ := putHalf_eq_pair o kind
  rw [headerBytes, hsrc, hdst, hpid, hkind]
  simp only [List.cons_append, List.nil_append, decodeFrame, hs, hd, hp, hk]

/-- A frame that encodes has the header's 8 bytes and the payload's, at most 240 of them. -/
theorem length_of_encodeFrame {o : HdrOrder} {src dst pid kind : Half} {payload frame : List Byte}
    (h : encodeFrame o src dst pid kind payload = some frame) : frame.length = 8 + payload.length ∧ payload.length ≤ 240 := by
  unfold encodeFrame at h
  split at h
  next => cases h
  next hfits =>
    cases h
    exact ⟨by rw [List.length_append, headerBytes_length], Nat.not_lt.mp hfits⟩

/-- A frame that encodes decodes to the packet it was made of (R100). -/
theorem decodeFrame_of_encodeFrame {o : HdrOrder} {src dst pid kind : Half} {payload frame : List Byte}
    (h : encodeFrame o src dst pid kind payload = some frame) : decodeFrame o frame = some ⟨src, dst, pid, kind, payload⟩ := by
  unfold encodeFrame at h
  split at h
  next => cases h
  next => cases h; exact decodeFrame_headerBytes o src dst pid kind payload

end Sys2Proof.Machine

namespace Sys2Proof.Proofs

open Sys2Proof.Machine

/-- Settles O48: every encoding is the header before the payload, and only a payload that fits has one. -/
theorem codecRoundTrip : Obligations.CodecRoundTrip := by
  refine fun o src dst pid kind payload => ⟨fun hfits => ?_, fun hover => if_pos hover⟩
  have henc : encodeFrame o src dst pid kind payload = some (headerBytes o src dst pid kind ++ payload) :=
    if_neg (Nat.not_lt.mpr hfits)
  exact ⟨_, henc, (length_of_encodeFrame henc).1, decodeFrame_of_encodeFrame henc⟩

end Sys2Proof.Proofs
end

section
/-! SUPPORT. What no operation writes, and who writes the request record. First one principle that lifts a relation between states
from the handlers to every operation and to every step; then the two frames, with the settling of their statements. -/

namespace Sys2Proof.Machine

open Sys2Proof.Claims

/-- Before listening resumes only the log, the event queue and the trace are written. -/
theorem BeforeResume.eq_update {i : Instr} {s u : State} (h : BeforeResume i s u) :
    ∃ log evq trace, u = { s with log := log, evq := evq, trace := trace } := by
  cases h <;> exact ⟨_, _, _, rfl⟩

/-- An input that is complete in itself. -/
theorem step_of_fetch_done {s t : State} {e : Event} {rest : List Event} (hs : s.script = e :: rest)
    (h : fetch e { s with script := rest } = .done t) : step s = .next t :=
  (step_cons hs).trans (congrArg runFetched h)

/-! ### From handlers to operations and steps -/

/-- A relation that holds across each part of a dispatch branch other than its handler. -/
structure BranchClosed (R : State → State → Prop) : Prop where
  trans : ∀ {s t u}, R s t → R t u → R s u
  snapTaken : ∀ s snap, R s { s with snap := snap }
  frameTaken : ∀ s, R s (fifoRead s)
  hopFollowed : ∀ f s, R s (tuned f s)
  hopFault : ∀ c s, IsResyncFault c → R s (faulted c (hopRead s))
  unrecognised : ∀ n s, R s (logged .unrecognizedIrq n s)

/-- The operations a dispatch branch runs. -/
def isHandler : Instr → Bool
  | .rxCrcerr _ | .rxShort _ | .rxReq | .rxAck | .rxBcast | .rxUnsupported _ => true
  | .txdoneReq | .txdoneAck | .txdoneBcast | .txdoneNone _ => true
  | _ => false

/-- What holds across the operation itself, or across every handler a branch may run, holds across the operation. -/
theorem exec_of_handler {R : State → State → Prop} (hR : BranchClosed R) {i : Instr}
    (hout : ∀ h s t, h = i ∨ isHandler h = true → Outcome h s t → R s t) {s t : State} (h : exec i s = .next t) :
    R s t := by
  cases hi : isIrq i with
  | false => exact hout i s t (.inl rfl) (exec_outcome hi h)
  | true =>
    cases exec_irqOutcome hi h with
    | hopIgnored snap _ => exact hR.snapTaken s snap
    | hopFollowed snap _ f hf => exact hR.trans (hR.snapTaken s snap) (hR.hopFollowed f _)
    | hopFault snap _ c hc => exact hR.trans (hR.snapTaken s snap) (hR.hopFault c _ hc)
    | unrecognised snap _ => exact hR.trans (hR.snapTaken s snap) (hR.unrecognised _ _)
    | txdone snap _ handler _ hk ho =>
      have hh : isHandler handler = true := by obtain ⟨-, rfl⟩ | ⟨-, rfl⟩ | ⟨-, rfl⟩ := hk <;> rfl
      exact hR.trans (hR.snapTaken s snap) (hout _ _ _ (.inr hh) ho)
    | crcError snap _ _ hcrc ho => exact hR.trans (hR.snapTaken s snap) (hout _ _ _ (.inr rfl) ho)
    | frame snap _ handler _ hcrc hk ho =>
      have hh : isHandler handler = true := by
        obtain rfl | ⟨p, -, ⟨-, rfl⟩ | ⟨-, rfl⟩ | ⟨-, rfl⟩ | rfl⟩ := hk <;> rfl
      exact hR.trans (hR.snapTaken s snap) (hR.trans (hR.frameTaken { s with snap := snap }) (hout _ _ _ (.inr hh) ho))

/-- What holds across every handler holds across every operation. -/
theorem exec_of_outcome {R : State → State → Prop} (hR : BranchClosed R) (hout : ∀ i s t, Outcome i s t → R s t)
    {i : Instr} {s t : State} (h : exec i s = .next t) : R s t :=
  exec_of_handler hR (fun h s t _ ho => hout h s t ho) h

/-- What holds across every operation, and across every input that selects none, holds across every step but PE reset. -/
theorem step_of_exec {R : State → State → Prop} (trans : ∀ {s t u}, R s t → R t u → R s u) (refl : ∀ s, R s s)
    (scripted : ∀ s rest, R s { s with script := rest }) (untouched : ∀ s t, Untouched s t → R s t)
    (entered : ∀ l s, R s (dispatched l s)) (hexec : ∀ i s t, exec i s = .next t → R s t)
    {s t : State} (hreset : s.script.head? ≠ some .peReset) (h : step s = .next t) : R s t := by
  rcases step_cases h with ⟨-, rfl⟩ | ⟨e, rest, hs, ⟨rfl, -⟩ | ⟨-, hu⟩ | ⟨-, i, u, hx, hsel⟩⟩
  · exact refl _
  · rw [hs] at hreset
    exact absurd rfl hreset
  · exact trans (scripted s rest) (untouched _ _ hu)
  · have hin : R s u := by
      rcases hsel with ⟨-, -, -, rfl⟩ | ⟨-, -, -, rfl⟩ | ⟨l, -, -, -, -, rfl⟩ | ⟨-, -, -, rfl⟩
      · exact scripted s rest
      · exact scripted s rest
      · exact trans (scripted s rest) (entered l _)
      · exact scripted s rest
    exact trans hin (hexec i u t hx)

/-- A predicate that PE reset, every operation and every other input keep is kept by every step. -/
theorem step_keeps {P : State → Prop} (reset : ∀ s, P s → P (peReset s)) (scripted : ∀ s rest, P s → P { s with script := rest })
    (untouched : ∀ s t, Untouched s t → P s → P t) (entered : ∀ l s, P s → P (dispatched l s))
    (hexec : ∀ i s t, exec i s = .next t → P s → P t) {s t : State} (hs : P s) (h : step s = .next t) : P t := by
  by_cases hreset : s.script.head? = some .peReset
  · have hscript : s.script = .peReset :: s.script.tail := (List.cons_head?_tail hreset).symm
    cases (step_peReset hscript).symm.trans h
    exact reset _ (scripted s _ hs)
  · exact step_of_exec (R := fun s t => P s → P t) (fun h h' hs => h' (h hs)) (fun _ => id) scripted untouched entered hexec
      hreset h hs

/-! ### What no operation writes (R12, R29, R58, R97) -/

/-- The configuration, the host's operand registers, and what the radio alone writes. -/
structure InputsKept (s t : State) : Prop where
  cfg : t.cfg = s.cfg
  destReg : t.destReg = s.destReg
  retryReg : t.retryReg = s.retryReg
  plenReg : t.plenReg = s.plenReg
  timeoutReg : t.timeoutReg = s.timeoutReg
  mem : t.mem = s.mem
  script : t.script = s.script
  hostData : t.hostData = s.hostData
  irq : t.radio.irq = s.radio.irq
  hopCh : t.radio.hopCh = s.radio.hopCh
  rxFrame : t.radio.rxFrame = s.radio.rxFrame
  snrRaw : t.radio.snrRaw = s.radio.snrRaw
  rssiRaw : t.radio.rssiRaw = s.radio.rssiRaw

theorem InputsKept.trans {s t u : State} (h : InputsKept s t) (h' : InputsKept t u) : InputsKept s u where
  cfg := h'.cfg.trans h.cfg
  destReg := h'.destReg.trans h.destReg
  retryReg := h'.retryReg.trans h.retryReg
  plenReg := h'.plenReg.trans h.plenReg
  timeoutReg := h'.timeoutReg.trans h.timeoutReg
  mem := h'.mem.trans h.mem
  script := h'.script.trans h.script
  hostData := h'.hostData.trans h.hostData
  irq := h'.irq.trans h.irq
  hopCh := h'.hopCh.trans h.hopCh
  rxFrame := h'.rxFrame.trans h.rxFrame
  snrRaw := h'.snrRaw.trans h.snrRaw
  rssiRaw := h'.rssiRaw.trans h.rssiRaw

theorem Outcome.inputsKept {i : Instr} {s t : State} (h : Outcome i s t) : InputsKept s t := by
  cases h with
  | resumed _ _ u f hu hf => obtain ⟨log, evq, trace, rfl⟩ := hu.eq_update; constructor <;> simp
  | resumeFault _ _ u c hu hc => obtain ⟨log, evq, trace, rfl⟩ := hu.eq_update; constructor <;> simp
  | _ => constructor <;> simp

theorem exec_inputsKept {i : Instr} {s t : State} (h : exec i s = .next t) : InputsKept s t := by
  refine exec_of_outcome (R := InputsKept) ⟨InputsKept.trans, ?_, ?_, ?_, ?_, ?_⟩ (fun _ _ _ ho => ho.inputsKept) h
  all_goals
    intros
    constructor <;> simp

/-! ### Who writes the request record and the send bookkeeping (R17 to R21, R27, R38) -/

/-- What a handler other than the named writers leaves of the request record, the send bookkeeping and the frame in
flight. -/
structure WrittenByNamed (i : Instr) (s t : State) : Prop where
  request : i ≠ .sendReq → t.reqDst = s.reqDst ∧ t.reqPayload = s.reqPayload ∧ t.retry = s.retry ∧ t.timeout = s.timeout
  attempt : i ∉ [.sendReq, .timerRetry] → t.attempt = s.attempt
  opKind : i ∉ sendCommands → t.opKind = s.opKind
  outPid : i ∉ [.sendReq, .rxAck, .timerFinal] → t.outPid = s.outPid
  timerArmed : i ∉ [.sendReq, .timerRetry, .rxAck, .timerFinal] → t.timerArmed = s.timerArmed
  result : i ∉ [.sendReq, .sendAck, .sendBcast, .rxAck, .timerFinal] → t.result = s.result
  inFlight : i ∉ [.sendReq, .sendAck, .sendBcast, .timerRetry, .rxReq] →
    t.curKind = s.curKind ∧ t.radio.txFrame = s.radio.txFrame

theorem Outcome.writtenByNamed {i : Instr} {s t : State} (h : Outcome i s t) : WrittenByNamed i s t := by
  cases h with
  | tooLarge _ _ hi => 
    simp only [sendCommands, List.mem_cons, List.not_mem_nil, or_false] at hi
    obtain rfl | rfl | rfl := hi <;> constructor <;> simp
  | sent _ _ k _ hi =>
    obtain ⟨rfl, rfl⟩ | ⟨rfl, rfl⟩ := hi <;> constructor <;> simp [sendCommands]
  | sendFault _ _ k _ hi =>
    obtain ⟨rfl, rfl⟩ | ⟨rfl, rfl⟩ := hi <;> constructor <;> simp [sendCommands]
  | resumed _ _ u f hu hf => obtain ⟨log, evq, trace, rfl⟩ := hu.eq_update; constructor <;> simp
  | resumeFault _ _ u c hu hc => obtain ⟨log, evq, trace, rfl⟩ := hu.eq_update; constructor <;> simp
  | _ => constructor <;> simp [sendCommands]

/-- A handler that is no named writer writes for no branch that runs it. -/
theorem WrittenByNamed.of_handler {h : Instr} {s t : State} (hw : WrittenByNamed h s t)
    (hh : h ∉ [.sendReq, .sendAck, .sendBcast, .timerRetry, .timerFinal, .rxReq, .rxAck]) (i : Instr) :
    WrittenByNamed i s t := by
  simp only [List.mem_cons, List.not_mem_nil, or_false, not_or] at hh
  exact {
    request := fun _ => hw.request (by simp [hh])
    attempt := fun _ => hw.attempt (by simp [hh])
    opKind := fun _ => hw.opKind (by simp [hh, sendCommands])
    outPid := fun _ => hw.outPid (by simp [hh])
    timerArmed := fun _ => hw.timerArmed (by simp [hh])
    result := fun _ => hw.result (by simp [hh])
    inFlight := fun _ => hw.inFlight (by simp [hh]) }

/-- The branches other than IRQ.RXDONE run no named writer. -/
theorem exec_writtenByNamed {i : Instr} {s t : State} (hrx : ∀ snap, i ≠ .irqRxdone snap) (h : exec i s = .next t) :
    WrittenByNamed i s t := by
  cases hi : isIrq i with
  | false => exact (exec_outcome hi h).writtenByNamed
  | true =>
    cases exec_irqOutcome hi h with
    | txdone snap _ handler _ hk ho =>
      have hh : handler ∉ [Instr.sendReq, .sendAck, .sendBcast, .timerRetry, .timerFinal, .rxReq, .rxAck] := by
        obtain ⟨-, rfl⟩ | ⟨-, rfl⟩ | ⟨-, rfl⟩ := hk <;> simp
      obtain ⟨hreq, hatt, hop, hpid, harm, hres, hfly⟩ := ho.writtenByNamed
      exact WrittenByNamed.of_handler (s := s) ⟨hreq, hatt, hop, hpid, harm, hres, hfly⟩ hh _
    | crcError snap => exact absurd rfl (hrx snap)
    | frame snap => exact absurd rfl (hrx snap)
    | _ => constructor <;> simp

/-- IRQ.RXDONE runs a received-frame handler, and none of those takes a request or counts an attempt. -/
theorem exec_irqRxdone_keeps_request {snap : Byte} {s t : State} (h : exec (.irqRxdone snap) s = .next t) :
    (t.reqDst = s.reqDst ∧ t.reqPayload = s.reqPayload ∧ t.retry = s.retry ∧ t.timeout = s.timeout) ∧
      t.attempt = s.attempt ∧ t.opKind = s.opKind := by
  have kept {h : Instr} {u : State} (hw : WrittenByNamed h u t) (hh : h ∉ [.sendReq, .sendAck, .sendBcast, .timerRetry]) :
      (t.reqDst = u.reqDst ∧ t.reqPayload = u.reqPayload ∧ t.retry = u.retry ∧ t.timeout = u.timeout) ∧
        t.attempt = u.attempt ∧ t.opKind = u.opKind := by
    simp only [List.mem_cons, List.not_mem_nil, or_false, not_or] at hh
    exact ⟨hw.request (by simp [hh]), hw.attempt (by simp [hh]), hw.opKind (by simp [hh, sendCommands])⟩
  cases exec_irqOutcome rfl h with
  | crcError _ _ _ hcrc ho =>
    have hkept := kept ho.writtenByNamed (by simp)
    exact hkept
  | frame _ _ handler _ hcrc hk ho =>
    have hh : handler ∉ [Instr.sendReq, .sendAck, .sendBcast, .timerRetry] := by
      obtain rfl | ⟨p, -, ⟨-, rfl⟩ | ⟨-, rfl⟩ | ⟨-, rfl⟩ | rfl⟩ := hk <;> simp
    have hkept := kept ho.writtenByNamed hh
    exact hkept

end Sys2Proof.Machine

namespace Sys2Proof.Proofs

open Sys2Proof.Machine Sys2Proof.Claims

/-- Settles O51. -/
theorem operationsLeaveOperandsAndRadioInputs : Obligations.OperationsLeaveOperandsAndRadioInputs := by
  intro i s t h
  obtain ⟨hcfg, hdest, hretry, hplen, htimeout, hmem, hscript, hdata, hirq, hhop, hrx, hsnr, hrssi⟩ := exec_inputsKept h
  exact ⟨hcfg, hdest, hretry, hplen, htimeout, fun a => by rw [hmem], hscript, hdata, hirq, hhop, hrx, hsnr, hrssi⟩

/-- Settles O52: IRQ.RXDONE, the one branch that runs named writers, is stated apart. -/
theorem onlyNamedOperationsWriteTheRequest : Obligations.OnlyNamedOperationsWriteTheRequest := by
  intro i s t h
  by_cases hrx : ∀ snap, i ≠ .irqRxdone snap
  · obtain ⟨hreq, hatt, hop, hpid, harm, hres, hfly⟩ := exec_writtenByNamed hrx h
    exact ⟨hreq, hatt, hop, fun hi _ => hpid hi, fun hi _ => harm hi, fun hi _ => hres hi, fun hi _ => hfly hi⟩
  · simp only [ne_eq, not_forall, not_not] at hrx
    obtain ⟨snap, rfl⟩ := hrx
    obtain ⟨hreq, hatt, hop⟩ := exec_irqRxdone_keeps_request h
    exact ⟨fun _ => hreq, fun _ => hatt, fun _ => hop, fun _ hi => absurd rfl (hi snap), fun _ hi => absurd rfl (hi snap),
      fun _ hi => absurd rfl (hi snap), fun _ hi => absurd rfl (hi snap)⟩

end Sys2Proof.Proofs
end

section
/-! SUPPORT. Every operation and every step answers a next state, but for an attempt of a request that is too long (R7, R85); with
the settling of the statement. -/

namespace Sys2Proof.Machine

open Sys2Proof.Claims

theorem rxResume_total (s : State) : ∃ t, (rxResume s).outcome = .next t := by
  rcases rxResume_cases s with ⟨f, -, he⟩ | ⟨c, -, he⟩
  · exact ⟨_, he⟩
  · exact ⟨_, he⟩

theorem execTxdoneReq_total (s : State) : ∃ t, execTxdoneReq s = .next t := by
  rcases execTxdoneReq_cases s with ⟨f, -, he⟩ | ⟨c, -, he⟩
  · exact ⟨_, he⟩
  · exact ⟨_, he⟩

theorem hostSetMode_total (m : RadioMode) (s : State) : ∃ t, (hostSetMode m s).outcome = .next t := by
  rcases hostSetMode_cases m s with he | ⟨-, -, he | he | ⟨_, he, -⟩ | ⟨_, -, -, -, he⟩ | ⟨_, -, he⟩⟩
  all_goals exact ⟨_, congrArg Flow.outcome he⟩

theorem execSendReq_total (s : State) : ∃ t, execSendReq s = .next t := by
  rcases execSendReq_cases s with ⟨-, he⟩ | ⟨-, -, he⟩ | ⟨-, -, ⟨-, he⟩ | ⟨-, ⟨_, -, he⟩ | ⟨_, -, he⟩⟩⟩
  all_goals exact ⟨_, he⟩

theorem sendOnce_total (k : Kind) (s : State) :
    ∃ t, ((sendCheck s).andThen (checkSize (sendOnce k))).outcome = .next t := by
  rcases sendOnce_outcome_cases k s with ⟨-, he⟩ | ⟨-, -, he⟩ | ⟨-, -, ⟨_, -, he⟩ | ⟨_, -, he⟩⟩
  all_goals exact ⟨_, he⟩

theorem execRxReq_total (s : State) : ∃ t, execRxReq s = .next t := by
  rcases execRxReq_cases s with ⟨u, -, he⟩ | ⟨_, -, -, ⟨_, -, he⟩ | ⟨_, -, he⟩⟩
  · exact he ▸ rxResume_total u
  all_goals exact ⟨_, he⟩

theorem execRxAck_total (s : State) : ∃ t, execRxAck s = .next t := by
  rcases execRxAck_cases s with ⟨u, -, he⟩ | ⟨_, -, -, he⟩
  · exact he ▸ rxResume_total u
  · exact ⟨_, he⟩

theorem execRxBcast_total (s : State) : ∃ t, execRxBcast s = .next t := by
  rcases execRxBcast_cases s with he | ⟨_, -, he⟩
  all_goals exact he ▸ rxResume_total _

theorem execIrqTxdone_total (snap : Byte) (s : State) : ∃ t, execIrqTxdone snap s = .next t := by
  rcases execIrqTxdone_cases snap s with ⟨-, he⟩ | ⟨-, he⟩ | ⟨-, he⟩
  · exact he ▸ execTxdoneReq_total _
  all_goals exact ⟨_, he⟩

theorem execIrqRxdone_total (snap : Byte) (s : State) : ∃ t, execIrqRxdone snap s = .next t := by
  rcases execIrqRxdone_cases snap s with
    ⟨-, he⟩ | ⟨-, ⟨-, he⟩ | ⟨_, -, ⟨-, he⟩ | ⟨-, he⟩ | ⟨-, he⟩ | ⟨-, he⟩⟩⟩
  · exact he ▸ rxResume_total _
  · exact he ▸ rxResume_total _
  · exact he ▸ execRxReq_total _
  · exact he ▸ execRxAck_total _
  · exact he ▸ execRxBcast_total _
  · exact he ▸ rxResume_total _

theorem execIrqHop_total (snap : Byte) (s : State) : ∃ t, execIrqHop snap s = .next t := by
  rcases execIrqHop_cases snap s with he | ⟨_, -, he⟩ | ⟨_, -, he⟩
  all_goals exact ⟨_, he⟩

/-- Only an attempt of a request that is too long stops. -/
theorem exec_total (i : Instr) (s : State) : (∃ t, exec i s = .next t) ∨
    i = .timerRetry ∧ 240 < s.reqPayload.length ∧ exec i s = .fault .oversizeFrame := by
  cases i with
  | timerRetry =>
    rcases Nat.lt_or_ge 240 s.reqPayload.length with hover | hfits
    · exact .inr ⟨rfl, hover, execTimerRetry_oversize hover⟩
    · rcases execTimerRetry_cases hfits with ⟨_, -, he⟩ | ⟨_, -, he⟩
      all_goals exact .inl ⟨_, he⟩
  | sendReq => exact .inl (execSendReq_total s)
  | sendAck | sendBcast => exact .inl (sendOnce_total _ s)
  | modeSleep | modeStdby | modeTx | modeRxc | modeRxs | modeCad => exact .inl (hostSetMode_total _ s)
  | irqTxdone snap => exact .inl (execIrqTxdone_total snap s)
  | irqRxdone snap => exact .inl (execIrqRxdone_total snap s)
  | irqHop snap => exact .inl (execIrqHop_total snap s)
  | rxCrcerr | rxShort | rxUnsupported => exact .inl (rxResume_total _)
  | rxReq => exact .inl (execRxReq_total s)
  | rxAck => exact .inl (execRxAck_total s)
  | rxBcast => exact .inl (execRxBcast_total s)
  | txdoneReq => exact .inl (execTxdoneReq_total s)
  | evqPop | irqNone | txdoneAck | txdoneBcast | txdoneNone | timerFinal => exact .inl ⟨_, rfl⟩

/-- A step does what exec does, or ends without an operation; exec then runs under the same request record. -/
theorem step_total (s : State) : (∃ t, step s = .next t) ∨
    240 < s.reqPayload.length ∧ step s = .fault .oversizeFrame := by
  cases hs : s.script with
  | nil => exact .inl ⟨s, step_nil hs⟩
  | cons e rest =>
    rw [step_cons hs]
    have run (i : Instr) (u : State) (hu : u.reqPayload = s.reqPayload) :
        (∃ t, runFetched (.operation i u) = .next t) ∨
          240 < s.reqPayload.length ∧ runFetched (.operation i u) = .fault .oversizeFrame := by
      rw [← hu]
      exact (exec_total i u).imp_right fun ⟨_, hover, he⟩ => ⟨hover, he⟩
    rcases fetch_cases e { s with script := rest } with
      ⟨-, hf⟩ | ⟨-, u, hf, -⟩ | ⟨-, i, ⟨_, -, -, hf⟩ | ⟨_, -, -, hf⟩ | ⟨_, -, -, -, -, hf⟩ | ⟨-, -, -, hf⟩⟩ <;> rw [hf]
    · exact .inl ⟨_, rfl⟩
    · exact .inl ⟨u, rfl⟩
    all_goals exact run i _ rfl

end Sys2Proof.Machine

namespace Sys2Proof.Proofs

open Sys2Proof.Machine Sys2Proof.Claims

/-- Settles O19: the model's one stop needs a recorded payload over 240 bytes. -/
theorem everyStepAnswersNext : Obligations.EveryStepAnswersNext := by
  refine ⟨fun s hfits => ?_, fun s r => ?_, fun s hover => execTimerRetry_oversize hover⟩
  · exact (step_total s).resolve_right fun ⟨hover, _⟩ => Nat.not_lt.mpr hfits hover
  · rcases step_total s with ⟨t, ht⟩ | ⟨-, ht⟩
    · rw [ht]; exact nofun
    · rw [ht]; exact nofun

end Sys2Proof.Proofs
end

section
/-! SUPPORT. What only grows and what stands: the log, the trace of accesses with the frames it loads, and the sticky fault (R26,
R60, R182); with the settling of the two statements. -/

namespace Sys2Proof.Machine

open Sys2Proof.Claims

/-! ### The log and the trace (R60, R182) -/

/-- The trace is extended at its end, and every frame loaded on the way has the property. -/
def TraceGrows (W : List Byte → Prop) (s t : State) : Prop :=
  ∃ more, t.trace = s.trace ++ more ∧ ∀ frame, Access.fifoWrite frame ∈ more → W frame

theorem TraceGrows.refl (W : List Byte → Prop) (s : State) : TraceGrows W s s :=
  ⟨[], (List.append_nil _).symm, fun _ h => nomatch h⟩

theorem TraceGrows.trans {W : List Byte → Prop} {s t u : State} (h : TraceGrows W s t) (h' : TraceGrows W t u) :
    TraceGrows W s u := by
  obtain ⟨more, ht, hW⟩ := h
  obtain ⟨more', hu, hW'⟩ := h'
  refine ⟨more ++ more', by rw [hu, ht, List.append_assoc], fun frame hf => ?_⟩
  exact (List.mem_append.mp hf).elim (hW frame) (hW' frame)

/-- Only the two traces count. -/
theorem TraceGrows.congr {W : List Byte → Prop} {s t s' t' : State} (h : TraceGrows W s t) (hs : s'.trace = s.trace)
    (ht : t'.trace = t.trace) : TraceGrows W s' t' := by
  obtain ⟨more, htrace, hW⟩ := h
  exact ⟨more, by rw [ht, hs, htrace], hW⟩

/-- Accesses that load no frame extend every trace. -/
theorem TraceGrows.of_append (W : List Byte → Prop) {s t : State} {more : List Access} (h : t.trace = s.trace ++ more)
    (hmore : ∀ frame, Access.fifoWrite frame ∉ more) : TraceGrows W s t :=
  ⟨more, h, fun frame hf => absurd hf (hmore frame)⟩

theorem TraceGrows.modeWritten (W : List Byte → Prop) (m : RadioMode) (code : BitVec 3) (s : State) :
    TraceGrows W s (modeWritten m code s) := .of_append W rfl (by simp)

theorem TraceGrows.routed (W : List Byte → Prop) (r : Route) (dio : Byte) (s : State) :
    TraceGrows W s (routed r dio s) := .of_append W rfl (by simp)

theorem TraceGrows.hopRead (W : List Byte → Prop) (s : State) : TraceGrows W s (hopRead s) := .of_append W rfl (by simp)

theorem TraceGrows.tuned (W : List Byte → Prop) (f : BitVec 32) (s : State) : TraceGrows W s (tuned f s) :=
  .of_append W rfl (by simp)

theorem TraceGrows.measured (W : List Byte → Prop) (s : State) : TraceGrows W s (measured s) := .of_append W rfl (by simp)

theorem TraceGrows.loaded {W : List Byte → Prop} {frame : List Byte} (h : W frame) (k : Kind) (s : State) :
    TraceGrows W s (loaded frame k s) :=
  ⟨[.fifoWrite frame], rfl, fun frame' hf => by simp at hf; exact hf ▸ h⟩

theorem TraceGrows.stoodBy (W : List Byte → Prop) (s : State) : TraceGrows W s (stoodBy s) := by
  unfold Claims.stoodBy
  split
  · exact .refl W s
  · exact (TraceGrows.routed W _ _ s).trans (.modeWritten W _ _ _)

theorem TraceGrows.enteredRxc (W : List Byte → Prop) (f : BitVec 32) (s : State) : TraceGrows W s (enteredRxc f s) :=
  ((TraceGrows.tuned W f s).trans (.routed W ⟨.rxdone, .hop⟩ 0x1F#8 _)).trans (.modeWritten W .rxc 0b101#3 _)

theorem TraceGrows.enteredTx (W : List Byte → Prop) (f : BitVec 32) (s : State) : TraceGrows W s (enteredTx f s) :=
  ((TraceGrows.tuned W f s).trans (.routed W ⟨.txdone, .hop⟩ 0x5F#8 _)).trans (.modeWritten W .tx 0b011#3 _)

theorem TraceGrows.resumed (W : List Byte → Prop) (f : BitVec 32) (s : State) : TraceGrows W s (resumed f s) := by
  unfold Claims.resumed
  split
  · exact .refl W s
  · exact .enteredRxc W f s

/-- Standby and the load, which every transmission begins with. -/
theorem TraceGrows.prepared {W : List Byte → Prop} {frame : List Byte} (h : W frame) (k : Kind) (s : State) :
    TraceGrows W s (Claims.loaded frame k (Claims.stoodBy s)) :=
  (TraceGrows.stoodBy W s).trans (.loaded h k _)

theorem TraceGrows.transmitted {W : List Byte → Prop} {frame : List Byte} (h : W frame) (k : Kind) (f : BitVec 32)
    (s : State) : TraceGrows W s (transmitted frame k f s) := (TraceGrows.prepared h k s).trans (.enteredTx W f _)

/-- A transmission that a resync fault ends. -/
theorem TraceGrows.transmitFault {W : List Byte → Prop} {frame : List Byte} (h : W frame) (k : Kind) (c : PeFault)
    (s : State) : TraceGrows W s (faulted c (Claims.hopRead (Claims.loaded frame k (Claims.stoodBy s)))) :=
  (TraceGrows.prepared h k s).trans (.hopRead W _)

theorem BeforeResume.traceGrows (W : List Byte → Prop) {i : Instr} {s u : State} (h : BeforeResume i s u) :
    TraceGrows W s u := by
  cases h with
  | logged => exact .refl W s
  | ignored => exact .refl W s
  | broadcast => exact .measured W s

/-- Every frame a handler loads is one this node puts on air with a payload that fits; one of kind Request carries a fresh
packet_id, or on a retry the outstanding one. -/
theorem Outcome.traceGrows {W : List Byte → Prop} {i : Instr} {s t : State} (h : Outcome i s t)
    (hreq : ∀ dst pid payload, payload.length ≤ 240 → pid ≠ 0#16 ∨ i = .timerRetry ∧ pid = s.outPid →
      W (frameOnAir s dst pid 0#16 payload))
    (hother : ∀ dst pid (k : Kind) payload, payload.length ≤ 240 → k ≠ .req → W (frameOnAir s dst pid k.code payload)) :
    TraceGrows W s t := by
  have sendable (hp : s.plenReg.toNat ≤ 240) : (payloadOf s).length ≤ 240 := by rw [payloadOf_length]; exact hp
  have answer (p : Packet) : W (frameOnAir s p.src p.pid 1#16 []) := hother _ _ .ack [] (by simp) (by simp)
  have single {k : Kind} (hi : i = .sendAck ∧ k = .ack ∨ i = .sendBcast ∧ k = .bcast) : k ≠ .req := by
    obtain ⟨-, rfl⟩ | ⟨-, rfl⟩ := hi <;> simp
  have take (k : Kind) : TraceGrows W s { takeHostPid s with opKind := some k } :=
    (TraceGrows.refl W s).congr rfl (by simp)
  cases h with
  | requested _ f ha hp =>
    have hframe := hreq s.destReg (nextPid s) (payloadOf s) (sendable hp) (.inl (nextPid_ne_zero s))
    exact (TraceGrows.transmitted hframe .req f (requestCopied (nextPid s) s)).congr rfl rfl
  | requestFault _ c ha hp =>
    have hframe := hreq s.destReg (nextPid s) (payloadOf s) (sendable hp) (.inl (nextPid_ne_zero s))
    exact (TraceGrows.transmitFault hframe .req c (requestCopied (nextPid s) s)).congr rfl rfl
  | sent _ _ k f hi ha hp =>
    have hframe := hother s.destReg (hostPid s) k (payloadOf s) (sendable hp) (single hi)
    exact ((take k).trans (.transmitted hframe k f { takeHostPid s with opKind := some k })).congr rfl rfl
  | sendFault _ _ k c hi ha hp =>
    have hframe := hother s.destReg (hostPid s) k (payloadOf s) (sendable hp) (single hi)
    exact (take k).trans (.transmitFault hframe k c { takeHostPid s with opKind := some k })
  | standby => exact .stoodBy W s
  | modeOnly _ m => exact .modeWritten W m _ s
  | listen _ f => exact .enteredRxc W f s
  | listenFault => exact (TraceGrows.hopRead W s).congr rfl rfl
  | resumed _ _ u f hu => exact (hu.traceGrows W).trans (.resumed W f u)
  | resumeFault _ _ u c hu => exact ((hu.traceGrows W).trans (.hopRead W u)).congr rfl rfl
  | answered _ p f => exact ((TraceGrows.measured W s).trans (.transmitted (answer p) .ack f _)).congr rfl rfl
  | answerFault _ p c => exact (TraceGrows.measured W s).trans (.transmitFault (answer p) .ack c _)
  | settled | matchedIdle => exact (TraceGrows.stoodBy W { s with outPid := 0#16 }).congr rfl rfl
  | awaitAck _ f => exact (TraceGrows.resumed W f s).congr rfl rfl
  | awaitFault => exact (TraceGrows.hopRead W s).congr rfl rfl
  | retried _ f hp =>
    have hframe := hreq s.reqDst s.outPid s.reqPayload hp (.inr ⟨rfl, rfl⟩)
    exact (TraceGrows.transmitted hframe .req f { s with attempt := s.attempt + 1#8 }).congr rfl rfl
  | retryFault _ c hp =>
    have hframe := hreq s.reqDst s.outPid s.reqPayload hp (.inr ⟨rfl, rfl⟩)
    exact (TraceGrows.transmitFault hframe .req c { s with attempt := s.attempt + 1#8 }).congr rfl rfl
  | refused | tooLarge | abandoned | modeSame | popped | finished | spurious | timedOut =>
    exact (TraceGrows.refl W s).congr rfl rfl

/-- The parts of a dispatch branch outside its handler load no frame. -/
theorem traceGrows_branchClosed (W : List Byte → Prop) : BranchClosed (TraceGrows W) where
  trans := TraceGrows.trans
  snapTaken s _ := (TraceGrows.refl W s).congr rfl rfl
  frameTaken s := .of_append W rfl (by simp)
  hopFollowed := .tuned W
  hopFault _ s _ := (TraceGrows.hopRead W s).congr rfl rfl
  unrecognised _ s := (TraceGrows.refl W s).congr rfl rfl

/-- The log is extended at its end. -/
def LogGrows (s t : State) : Prop := ∃ more, t.log = s.log ++ more

theorem LogGrows.of_eq {s t : State} (h : t.log = s.log) : LogGrows s t := ⟨[], by rw [h, List.append_nil]⟩

theorem LogGrows.trans {s t u : State} (h : LogGrows s t) (h' : LogGrows t u) : LogGrows s u := by
  obtain ⟨more, ht⟩ := h
  obtain ⟨more', hu⟩ := h'
  exact ⟨more ++ more', by rw [hu, ht, List.append_assoc]⟩

theorem BeforeResume.logGrows {i : Instr} {s u : State} (h : BeforeResume i s u) : LogGrows s u := by
  cases h with
  | logged _ _ c n => exact ⟨[⟨c, n⟩], rfl⟩
  | ignored => exact .of_eq rfl
  | broadcast => exact .of_eq rfl

theorem Outcome.logGrows {i : Instr} {s t : State} (h : Outcome i s t) : LogGrows s t := by
  cases h with
  | abandoned => exact ⟨[⟨.requestTimedOut, 0⟩], rfl⟩
  | timedOut => exact ⟨[⟨.requestTimedOut, s.attempt.toNat⟩], rfl⟩
  | spurious => exact ⟨[⟨.spuriousTxdone, s.snap.toNat⟩], rfl⟩
  | resumed _ _ u f hu => exact hu.logGrows.trans (.of_eq (by simp))
  | resumeFault _ _ u c hu => exact hu.logGrows.trans (.of_eq (by simp))
  | _ => exact .of_eq (by simp)

theorem logGrows_branchClosed : BranchClosed LogGrows where
  trans := LogGrows.trans
  snapTaken _ _ := .of_eq rfl
  frameTaken _ := .of_eq rfl
  hopFollowed _ _ := .of_eq rfl
  hopFault _ _ _ := .of_eq rfl
  unrecognised n _ := ⟨[⟨.unrecognizedIrq, n⟩], rfl⟩

/-! ### The sticky fault (R26) -/

/-- A fault that is set stands. -/
def FaultStands (s t : State) : Prop := s.fault ≠ .clear → t.fault = s.fault

theorem FaultStands.trans {s t u : State} (h : FaultStands s t) (h' : FaultStands t u) : FaultStands s u := by
  intro hs
  have ht := h hs
  rw [h' (ht ▸ hs), ht]

/-- While no fault is set afterwards, none was before. -/
theorem FaultStands.clear {s t : State} (h : FaultStands s t) (ht : t.fault = .clear) : s.fault = .clear := by
  by_contra hs
  exact hs ((h hs).symm.trans ht)

theorem FaultStands.of_eq {s t : State} (h : t.fault = s.fault) : FaultStands s t := fun _ => h

theorem FaultStands.faulted (c : PeFault) (s : State) : FaultStands s (faulted c s) := fun hs => if_neg hs

theorem Outcome.faultStands {i : Instr} {s t : State} (h : Outcome i s t) : FaultStands s t := by
  cases h with
  | refused => exact .faulted .callerError s
  | requestFault _ c => exact .trans (.of_eq (by simp)) (.faulted c _)
  | sendFault _ _ _ c => exact .trans (.of_eq (by simp)) (.faulted c _)
  | listenFault _ _ _ c => exact .trans (.of_eq (by simp)) (.faulted c _)
  | resumed _ _ u f hu => obtain ⟨log, evq, trace, rfl⟩ := hu.eq_update; exact .of_eq (by simp)
  | resumeFault _ _ u c hu => obtain ⟨log, evq, trace, rfl⟩ := hu.eq_update; exact .trans (.of_eq (by simp)) (.faulted c _)
  | answerFault _ _ c => exact .trans (.of_eq (by simp)) (.faulted c _)
  | awaitFault _ c => exact .trans (.of_eq (by simp)) (.faulted c _)
  | retryFault _ c => exact .trans (.of_eq (by simp)) (.faulted c _)
  | _ => exact .of_eq (by simp)

theorem faultStands_branchClosed : BranchClosed FaultStands where
  trans := FaultStands.trans
  snapTaken _ _ := .of_eq rfl
  frameTaken _ := .of_eq rfl
  hopFollowed _ _ := .of_eq rfl
  hopFault c s _ := .trans (.of_eq rfl) (.faulted c (hopRead s))
  unrecognised _ _ := .of_eq rfl

theorem exec_faultStands {i : Instr} {s t : State} (h : exec i s = .next t) : FaultStands s t :=
  exec_of_outcome faultStands_branchClosed (fun _ _ _ ho => ho.faultStands) h

theorem Untouched.faultStands {s t : State} (h : Untouched s t) : FaultStands s t :=
  fun hs => h.fault.resolve_right fun hc => hs hc.1

end Sys2Proof.Machine

namespace Sys2Proof.Proofs

open Sys2Proof.Machine Sys2Proof.Claims

/-- Settles O54: no access and no log entry is ever taken back. -/
theorem logAndTraceOnlyGrow : Obligations.LogAndTraceOnlyGrow := by
  intro s t h
  let anyFrame : List Byte → Prop := fun _ => True
  have trace_of_exec {i : Instr} {s t : State} (h : exec i s = .next t) : TraceGrows anyFrame s t :=
    exec_of_outcome (traceGrows_branchClosed anyFrame)
      (fun _ _ _ ho => ho.traceGrows (fun _ _ _ _ _ => trivial) fun _ _ _ _ _ _ => trivial) h
  have log_of_exec {i : Instr} {s t : State} (h : exec i s = .next t) : LogGrows s t :=
    exec_of_outcome logGrows_branchClosed (fun _ _ _ ho => ho.logGrows) h
  refine ⟨fun hreset => ?log, ?trace⟩
  case log =>
    exact step_of_exec (R := LogGrows) LogGrows.trans (fun _ => .of_eq rfl) (fun _ _ => .of_eq rfl) (fun _ _ hu => .of_eq hu.log)
      (fun _ _ => .of_eq rfl) (fun _ _ _ => log_of_exec) hreset h
  case trace =>
    suffices hgrows : TraceGrows anyFrame s t from hgrows.imp fun _ hmore => hmore.1
    by_cases hreset : s.script.head? = some .peReset
    · have hs : s.script = .peReset :: s.script.tail := (List.cons_head?_tail hreset).symm
      cases (step_peReset hs).symm.trans h
      exact (TraceGrows.refl anyFrame s).congr rfl rfl
    · exact step_of_exec (R := TraceGrows anyFrame) TraceGrows.trans (TraceGrows.refl _)
        (fun s _ => (TraceGrows.refl _ s).congr rfl rfl) (fun s _ hu => (TraceGrows.refl _ s).congr rfl hu.trace)
        (fun _ _ => .of_append _ rfl (by simp)) (fun _ _ _ => trace_of_exec) hreset h

/-- Settles O17. -/
theorem faultKeepsItsFirstCode : Obligations.FaultKeepsItsFirstCode := by
  intro s t e rest hs he hfault h
  have hstands : FaultStands s t :=
    step_of_exec (R := FaultStands) FaultStands.trans (fun _ => .of_eq rfl) (fun _ _ => .of_eq rfl) (fun _ _ hu => hu.faultStands)
      (fun _ _ => .of_eq rfl) (fun _ _ _ => exec_faultStands) (by rw [hs]; simpa using he) h
  exact hstands hfault

end Sys2Proof.Proofs
end

section
/-! SUPPORT. Every step keeps the fields in their ranges (R20, R24, R38): the memory, the request payload, the two frames, and the
event queue with its records; with the settling of the statement. -/

namespace Sys2Proof.Machine

open Sys2Proof.Claims

theorem frameOnAir_length (s : State) (dst pid kind : Half) (payload : List Byte) :
    (frameOnAir s dst pid kind payload).length = 8 + payload.length := by
  have field (o : HdrOrder) (v : Half) : (onAir o v).length = 2 := by cases o <;> rfl
  simp only [frameOnAir, List.length_append, field]

/-! ### The lengths an operation leaves -/

theorem Outcome.reqPayload_length {i : Instr} {s t : State} (h : Outcome i s t) (hs : s.reqPayload.length ≤ 240) :
    t.reqPayload.length ≤ 240 := by
  have copied (hp : s.plenReg.toNat ≤ 240) : (payloadOf s).length ≤ 240 := by rw [payloadOf_length]; exact hp
  cases h with
  | abandoned _ ha hp => exact copied hp
  | requested _ f ha hp => simpa using copied hp
  | requestFault _ c ha hp => simpa using copied hp
  | resumed _ _ u f hu => obtain ⟨log, evq, trace, rfl⟩ := hu.eq_update; simpa using hs
  | resumeFault _ _ u c hu => obtain ⟨log, evq, trace, rfl⟩ := hu.eq_update; simpa using hs
  | _ => simpa using hs

theorem Outcome.txFrame_length {i : Instr} {s t : State} (h : Outcome i s t) (hs : s.radio.txFrame.length ≤ 248) :
    t.radio.txFrame.length ≤ 248 := by
  have sent (dst pid kind : Half) {payload : List Byte} (hp : payload.length ≤ 240) :
      (frameOnAir s dst pid kind payload).length ≤ 248 := by rw [frameOnAir_length]; omega
  have copied (hp : s.plenReg.toNat ≤ 240) : (payloadOf s).length ≤ 240 := by rw [payloadOf_length]; exact hp
  cases h with
  | requested _ f ha hp => simpa using sent _ _ _ (copied hp)
  | requestFault _ c ha hp => simpa using sent _ _ _ (copied hp)
  | sent _ _ k f hi ha hp => simpa using sent _ _ _ (copied hp)
  | sendFault _ _ k c hi ha hp => simpa using sent _ _ _ (copied hp)
  | answered _ p => simpa using sent p.src p.pid 1#16 (payload := []) (by simp)
  | answerFault _ p => simpa using sent p.src p.pid 1#16 (payload := []) (by simp)
  | retried _ f hp => simpa using sent _ _ _ hp
  | retryFault _ c hp => simpa using sent _ _ _ hp
  | resumed _ _ u f hu => obtain ⟨log, evq, trace, rfl⟩ := hu.eq_update; simpa using hs
  | resumeFault _ _ u c hu => obtain ⟨log, evq, trace, rfl⟩ := hu.eq_update; simpa using hs
  | _ => simpa using hs

/-- The operations that may append a record to the event queue. -/
def queuesRecord : Instr → Bool
  | .irqTxdone _ | .irqRxdone _ | .rxReq | .rxBcast | .txdoneReq | .txdoneAck | .txdoneBcast => true
  | _ => false

/-- The records of R24: a transmit completion, or the payload of the frame in the receive buffer. -/
def RecordOf (s : State) (r : EvRecord) : Prop :=
  r.data = [] ∨ ∃ p, decodeFrame s.cfg.hdrOrder s.radio.rxFrame = some p ∧ r.data = p.payload

theorem RecordOf.length_le {s : State} {r : EvRecord} (h : RecordOf s r) (hrx : s.radio.rxFrame.length ≤ 255) :
    r.data.length ≤ 247 := by
  obtain hr | ⟨p, hp, hr⟩ := h
  · rw [hr]; exact Nat.zero_le _
  · obtain ⟨-, hpayload, -⟩ := decodeFrame_eq_some hp
    rw [hr, hpayload, List.length_drop]
    omega

/-- Everything an operation can do to the event queue. -/
theorem Outcome.evq_cases {i : Instr} {s t : State} (h : Outcome i s t) :
    t.evq = s.evq ∨ t.evq = s.evq.tail ∨ queuesRecord i = true ∧ ∃ r, RecordOf s r ∧ t.evq = s.evq ++ [r] := by
  have before {u : State} (hu : BeforeResume i s u) :
      u.evq = s.evq ∨ queuesRecord i = true ∧ ∃ r, RecordOf s r ∧ u.evq = s.evq ++ [r] := by
    cases hu with
    | logged => exact .inl rfl
    | ignored => exact .inl rfl
    | broadcast _ p hd => exact .inr ⟨rfl, _, .inr ⟨p, hd, rfl⟩, rfl⟩
  cases h with
  | popped => exact .inr (.inl rfl)
  | resumed _ _ u f hu =>
    rw [resumed_evq]
    exact (before hu).imp_right .inr
  | resumeFault _ _ u c hu => exact (before hu).imp_right .inr
  | answered _ p f hd => exact .inr (.inr ⟨rfl, _, .inr ⟨p, hd, rfl⟩, by rw [queued_evq, transmitted_evq]; rfl⟩)
  | awaitAck =>
    cases htxc : s.cfg.txcOnRequest with
    | true => exact .inr (.inr ⟨rfl, _, .inl rfl, rfl⟩)
    | false => exact .inl rfl
  | finished _ _ hi =>
    have hq : queuesRecord i = true := by obtain rfl | rfl := hi <;> rfl
    exact .inr (.inr ⟨hq, _, .inl rfl, rfl⟩)
  | _ => exact .inl (by simp)

/-! ### The ranges -/

theorem Outcome.inRange {i : Instr} {s t : State} (h : Outcome i s t) (hs : s.inRange) : t.inRange := by
  obtain ⟨hmem, hreq, hrx, htx, hrecords⟩ := hs
  have hkept := h.inputsKept
  refine ⟨hkept.mem ▸ hmem, h.reqPayload_length hreq, hkept.rxFrame ▸ hrx, h.txFrame_length htx, fun r hr => ?_⟩
  obtain hq | hq | ⟨-, new, hnew, hq⟩ := h.evq_cases <;> rw [hq] at hr
  · exact hrecords r hr
  · exact hrecords r (List.mem_of_mem_tail hr)
  · obtain hold | hlast := List.mem_append.mp hr
    · exact hrecords r hold
    · rw [List.mem_singleton.mp hlast]
      exact hnew.length_le hrx

theorem exec_inRange {i : Instr} {s t : State} (h : exec i s = .next t) (hs : s.inRange) : t.inRange :=
  exec_of_outcome (R := fun s t => s.inRange → t.inRange)
    ⟨fun h h' hs => h' (h hs), fun _ _ => id, fun _ => id, fun _ _ => id, fun _ _ _ => id, fun _ _ => id⟩
    (fun _ _ _ => Outcome.inRange) h hs

/-- No radio event loads a frame for transmission, and it delivers at most 255 bytes (R188). -/
theorem Untouched.inRange {s t : State} (h : Untouched s t) (hs : s.inRange) : t.inRange := by
  obtain ⟨hmem, hreq, hrx, htx, hrecords⟩ := hs
  have hmem' : Memory.wf t.mem := by
    obtain hm | ⟨i, v, hi, hm⟩ := h.mem <;> rw [hm]
    · exact hmem
    · exact Memory.write_wf v hmem (Nat.le_add_right _ _) (by change _ < 0x2FF; omega)
  have hradio : t.radio.rxFrame.length ≤ 255 ∧ t.radio.txFrame.length ≤ 248 := by
    obtain hr | ⟨-, hr⟩ | ⟨frame, _, _, _, -, hframe, hr⟩ | ⟨_, hr⟩ | ⟨_, hr⟩ := h.radio <;> rw [hr]
    · exact ⟨hrx, htx⟩
    · exact ⟨hrx, htx⟩
    · exact ⟨hframe, htx⟩
    · exact ⟨hrx, htx⟩
    · exact ⟨hrx, htx⟩
  exact ⟨hmem', h.reqPayload ▸ hreq, hradio.1, hradio.2, h.evq ▸ hrecords⟩

theorem step_inRange {s t : State} (hs : s.inRange) (h : step s = .next t) : t.inRange := by
  refine step_keeps (P := State.inRange) (fun s hs => ?reset) (fun _ _ => id) (fun _ _ => Untouched.inRange)
    (fun l s => ?entered) (fun _ _ _ => exec_inRange) hs h
  case reset =>
    obtain ⟨-, -, hrx, htx, -⟩ := hs
    exact ⟨⟨List.Pairwise.nil, fun _ hc => nomatch hc⟩, Nat.zero_le _, hrx, htx, fun _ hr => nomatch hr⟩
  case entered => exact id

/-! ### The queue's depth -/

theorem exec_evq_length {i : Instr} {s t : State} (h : exec i s = .next t) :
    t.evq.length ≤ s.evq.length + 1 ∧ (queuesRecord i = false → t.evq.length ≤ s.evq.length) := by
  have handled {h : Instr} {u : State} (ho : Outcome h u t) :
      t.evq.length ≤ u.evq.length + 1 ∧ (queuesRecord h = false → t.evq.length ≤ u.evq.length) := by
    obtain hq | hq | ⟨hqueues, r, -, hq⟩ := ho.evq_cases <;> rw [hq]
    · exact ⟨Nat.le_succ _, fun _ => le_rfl⟩
    · rw [List.length_tail]; exact ⟨by omega, fun _ => by omega⟩
    · rw [List.length_append]
      exact ⟨le_rfl, fun hno => absurd (hqueues.symm.trans hno) (by decide)⟩
  cases hi : isIrq i with
  | false => exact handled (exec_outcome hi h)
  | true =>
    cases exec_irqOutcome hi h with
    | txdone _ _ _ _ _ ho => exact ⟨(handled ho).1, fun hno => nomatch hno⟩
    | crcError _ _ _ _ ho => exact ⟨(handled ho).1, fun hno => nomatch hno⟩
    | frame _ _ _ _ _ _ ho => exact ⟨(handled ho).1, fun hno => nomatch hno⟩
    | hopIgnored | hopFollowed | hopFault | unrecognised => exact ⟨Nat.le_succ _, fun _ => le_rfl⟩

/-- No CMD word selects an operation that queues a record. -/
theorem queuesRecord_of_decode_cmd {b : IrqBits} {w : Half} {i : Instr} (h : decode b (.cmd w) = .ok i) :
    queuesRecord i = false := by
  have hall : ∀ i ∈ cmdOperations, queuesRecord i = false := by decide
  exact hall i (mem_cmdOperations_of_decode h)

/-- A dispatch finds room in the queue (R149), and no other input queues a record. -/
theorem step_queueInRange {s t : State} (hs : s.queueInRange) (h : step s = .next t) : t.queueInRange := by
  rcases step_cases h with ⟨-, rfl⟩ | ⟨e, rest, -, ⟨-, rfl⟩ | ⟨-, hu⟩ | ⟨-, i, u, hx, hsel⟩⟩
  · exact hs
  · exact Nat.zero_le _
  · change t.evq.length ≤ t.cfg.qdepth
    rw [hu.evq, hu.cfg]
    exact hs
  · change t.evq.length ≤ t.cfg.qdepth
    rw [(exec_inputsKept hx).cfg]
    obtain ⟨hroom, hno⟩ := exec_evq_length hx
    rcases hsel with ⟨w, -, hd, rfl⟩ | ⟨v, -, rfl, rfl⟩ | ⟨l, -, -, hlt, -, rfl⟩ | ⟨-, -, hi, rfl⟩
    · exact (hno (queuesRecord_of_decode_cmd hd)).trans hs
    · exact (hno rfl).trans hs
    · exact hroom.trans hlt
    · have hqueues : queuesRecord i = false := by rw [hi]; split <;> rfl
      exact (hno hqueues).trans hs

end Sys2Proof.Machine

namespace Sys2Proof.Proofs

open Sys2Proof.Machine

/-- Settles O57. -/
theorem stepKeepsFieldsInRange : Obligations.StepKeepsFieldsInRange :=
  fun _ _ hrange hqueue h => ⟨step_inRange hrange h, step_queueInRange hqueue h⟩

end Sys2Proof.Proofs
end

section
/-! SUPPORT. Every step keeps that the PE's record of the radio is true: the shadow mode and the routing record (R15, R23, R94,
R207); with the settling of the statement, and of the one that a transmitting radio receives nothing (R216). -/

namespace Sys2Proof.Machine

open Sys2Proof.Claims

/-- The shadow mode and the routing record both tell the truth. -/
def State.mirrored (s : State) : Prop := s.shadowInvariant ∧ s.routeInvariant

/-- Nothing else of the state counts. -/
theorem State.mirrored.congr {s t : State} (hs : s.mirrored) (hmode : t.mode = s.mode) (hroute : t.route = s.route)
    (hopmode : t.radio.opmode = s.radio.opmode) (htx : t.radio.transmitting = s.radio.transmitting)
    (hdio : t.radio.dio = s.radio.dio) : t.mirrored := by
  simp only [State.mirrored, State.shadowInvariant, State.routeInvariant, hmode, hroute, hopmode, htx, hdio]
  exact hs

theorem mirrored_modeWritten {m : RadioMode} {s : State} (hroute : s.routeInvariant) :
    (modeWritten m m.code s).mirrored := by
  refine ⟨⟨fun m' hm => ?mode, fun htx => ?transmitting⟩, hroute⟩
  case mode =>
    obtain rfl : m = m' := Option.some.inj hm
    exact .inl rfl
  case transmitting =>
    obtain rfl : m = .tx := of_decide_eq_true htx
    rfl

theorem routeInvariant_routed (r : LineRoute) (s : State) : (routed r.pair r.dioByte s).routeInvariant :=
  .inr ⟨r, rfl, rfl⟩

theorem mirrored_stoodBy {s : State} (hs : s.mirrored) : (stoodBy s).mirrored := by
  unfold stoodBy
  split
  · exact hs
  · exact mirrored_modeWritten (routeInvariant_routed .idle s)

theorem mirrored_enteredRxc (f : BitVec 32) (s : State) : (enteredRxc f s).mirrored :=
  mirrored_modeWritten (routeInvariant_routed .receive (tuned f s))

/-- Whatever state a transmission leaves, its mode and its mapping are those of Transmit. -/
theorem mirrored_of_transmit {t : State} (hmode : t.mode = some .tx) (hroute : t.route = ⟨.txdone, .hop⟩)
    (hopmode : t.radio.opmode = 0b011#3) (hdio : t.radio.dio = 0x5F#8) : t.mirrored := by
  refine ⟨⟨fun m hm => .inl ?_, fun _ => hopmode⟩, .inr ⟨.transmit, hroute, hdio⟩⟩
  obtain rfl : .tx = m := Option.some.inj (hmode.symm.trans hm)
  exact hopmode

theorem mirrored_resumed {f : BitVec 32} {s : State} (hs : s.mirrored) : (resumed f s).mirrored := by
  unfold resumed
  split
  · exact hs
  · exact mirrored_enteredRxc f s

/-- A transmission that a resync fault ends has gone to Standby and no further. -/
theorem mirrored_transmitFault (frame : List Byte) (k : Kind) (c : PeFault) {s : State} (hs : s.mirrored) :
    (faulted c (hopRead (loaded frame k (stoodBy s)))).mirrored :=
  (mirrored_stoodBy hs).congr rfl rfl rfl rfl rfl

theorem BeforeResume.mirrored {i : Instr} {s u : State} (h : BeforeResume i s u) (hs : s.mirrored) : u.mirrored := by
  obtain ⟨log, evq, trace, rfl⟩ := h.eq_update
  exact hs.congr rfl rfl rfl rfl rfl

theorem Outcome.mirrored {i : Instr} {s t : State} (h : Outcome i s t) (hs : s.mirrored) : t.mirrored := by
  have taken (k : Kind) : State.mirrored { takeHostPid s with opKind := some k } :=
    hs.congr (by simp) (by simp) (by simp) (by simp) (by simp)
  cases h with
  | requested | sent | answered | retried =>
    exact mirrored_of_transmit (by simp) (by simp) (by simp) (by simp)
  | requestFault _ c =>
    have hs' : (requestCopied (nextPid s) s).mirrored := hs.congr rfl rfl rfl rfl rfl
    exact mirrored_transmitFault _ .req c hs'
  | sendFault _ _ k c => exact mirrored_transmitFault _ k c (taken k)
  | answerFault _ p c =>
    have hs' : (measured s).mirrored := hs.congr rfl rfl rfl rfl rfl
    exact mirrored_transmitFault _ .ack c hs'
  | retryFault _ c =>
    have hs' : State.mirrored { s with attempt := s.attempt + 1#8 } := hs.congr rfl rfl rfl rfl rfl
    exact mirrored_transmitFault _ .req c hs'
  | standby => exact mirrored_stoodBy hs
  | settled | matchedIdle =>
    have hs' : State.mirrored { s with outPid := 0#16 } := hs.congr rfl rfl rfl rfl rfl
    exact (mirrored_stoodBy hs').congr rfl rfl rfl rfl rfl
  | modeOnly => exact mirrored_modeWritten hs.2
  | listen _ f => exact mirrored_enteredRxc f s
  | resumed _ _ u f hu => exact mirrored_resumed (hu.mirrored hs)
  | resumeFault _ _ u c hu => exact (hu.mirrored hs).congr rfl rfl rfl rfl rfl
  | awaitAck _ f => exact (mirrored_resumed (f := f) hs).congr rfl rfl rfl rfl rfl
  | refused | tooLarge | abandoned | modeSame | listenFault | popped | awaitFault | finished | spurious | timedOut =>
    exact hs.congr rfl rfl rfl rfl rfl

theorem exec_mirrored {i : Instr} {s t : State} (h : exec i s = .next t) (hs : s.mirrored) : t.mirrored :=
  exec_of_outcome (R := fun s t => s.mirrored → t.mirrored)
    ⟨fun h h' hs => h' (h hs), fun _ _ hs => hs.congr rfl rfl rfl rfl rfl, fun _ hs => hs.congr rfl rfl rfl rfl rfl,
      fun _ _ hs => hs.congr rfl rfl rfl rfl rfl, fun _ _ _ hs => hs.congr rfl rfl rfl rfl rfl,
      fun _ _ hs => hs.congr rfl rfl rfl rfl rfl⟩
    (fun _ _ _ => Outcome.mirrored) h hs

/-- A radio that transmits does not receive (R188). -/
theorem receiving_eq_false_of_transmitting {s : State} (hs : s.shadowInvariant) (htx : s.radio.transmitting = true) :
    s.radio.receiving = false := by
  rw [RadioState.receiving, hs.2 htx]
  rfl

/-- A radio event leaves the mode commanded, or Standby; and it starts no transmission. -/
theorem Untouched.mirrored {s t : State} (h : Untouched s t) (hs : s.mirrored) : t.mirrored := by
  obtain hr | ⟨-, hr⟩ | ⟨frame, crcErr, snr, rssi, hreceiving, -, hr⟩ | ⟨ch, hr⟩ | ⟨fl, hr⟩ := h.radio
  · exact hs.congr h.mode h.route (by rw [hr]) (by rw [hr]) (by rw [hr])
  · refine ⟨⟨fun _ _ => .inr (by rw [hr]; rfl), fun htx => ?_⟩, ?_⟩
    · rw [hr] at htx; cases htx
    · rw [State.routeInvariant, h.route, hr]; exact hs.2
  · have hidle : s.radio.transmitting = false := by
      by_contra htx
      rw [Bool.not_eq_false] at htx
      rw [receiving_eq_false_of_transmitting hs.1 htx] at hreceiving
      cases hreceiving
    refine ⟨⟨fun m hm => ?_, fun htx => ?_⟩, ?_⟩
    · rw [h.mode] at hm
      rw [hr]
      unfold RadioState.rxDone
      dsimp only
      split
      · exact .inr rfl
      · exact hs.1.1 m hm
    · rw [hr] at htx
      exact absurd (hidle.symm.trans htx) Bool.false_ne_true
    · rw [State.routeInvariant, h.route, hr]; exact hs.2
  · exact hs.congr h.mode h.route (by rw [hr]) (by rw [hr]) (by rw [hr])
  · exact hs.congr h.mode h.route (by rw [hr]) (by rw [hr]) (by rw [hr])

/-- PE reset forgets the mode and the route, and leaves the radio as it is (R194). -/
theorem mirrored_peReset {s : State} (hs : s.mirrored) : (peReset s).mirrored :=
  ⟨⟨fun _ hm => (nomatch hm), hs.1.2⟩, .inl rfl⟩

theorem step_mirrored {s t : State} (hs : s.mirrored) (h : step s = .next t) : t.mirrored :=
  step_keeps (P := State.mirrored) (fun _ => mirrored_peReset) (fun _ _ hs => hs.congr rfl rfl rfl rfl rfl)
    (fun _ _ => Untouched.mirrored) (fun _ _ hs => hs.congr rfl rfl rfl rfl rfl) (fun _ _ _ => exec_mirrored) hs h

/-- A reception that is not enabled is passed over (R188). -/
theorem step_radioRxDone_disabled {s : State} {frame : List Byte} {crcErr : Bool} {snr rssi : Byte} {rest : List Event}
    (hs : s.script = .radioRxDone frame crcErr snr rssi :: rest) (h : s.radio.receiving = false) :
    step s = .next { s with script := rest } := by
  have hdisabled : ¬(s.radio.receiving && decide (frame.length ≤ 255)) = true := by rw [h]; exact Bool.false_ne_true
  exact step_of_fetch_done hs (congrArg Fetched.done (if_neg hdisabled))

end Sys2Proof.Machine

namespace Sys2Proof.Proofs

open Sys2Proof.Machine

/-- Settles O58. -/
theorem stepKeepsShadowAndRoute : Obligations.StepKeepsShadowAndRoute :=
  fun _ _ hshadow hroute h => step_mirrored ⟨hshadow, hroute⟩ h

/-- Settles O60: the shadow invariant puts a transmitting radio in Transmit, where no reception is enabled. -/
theorem transmittingRadioReceivesNothing : Obligations.TransmittingRadioReceivesNothing :=
  fun _ _ _ _ _ _ hshadow htx hs => step_radioRxDone_disabled hs (receiving_eq_false_of_transmitting hshadow htx)

end Sys2Proof.Proofs
end

section
/-! SUPPORT. Every step keeps the request bookkeeping sound and every Request numbered (R138); with the settling of the two
statements. -/

namespace Sys2Proof.Machine

open Sys2Proof.Claims

/-! ### The request bookkeeping (R138 (a) and (d)) -/

/-- What the request invariant says while no fault is set. -/
def State.requestSound (s : State) : Prop :=
  (s.outPid ≠ 0#16 ↔ s.timerArmed = true) ∧ (s.timerArmed = true ↔ s.requesting) ∧
    (s.timerArmed = true → 1 ≤ s.attempt.toNat ∧ s.attempt.toNat ≤ s.retry.toNat)

theorem State.requestSound.congr {s t : State} (hs : s.requestSound) (hpid : t.outPid = s.outPid)
    (harmed : t.timerArmed = s.timerArmed) (hreq : t.requesting ↔ s.requesting) (hattempt : t.attempt = s.attempt)
    (hretry : t.retry = s.retry) : t.requestSound := by
  unfold State.requestSound
  rw [hpid, harmed, hreq, hattempt, hretry]
  exact hs

/-- Nothing outstanding. -/
theorem requestSound_of_idle {s : State} (hpid : s.outPid = 0#16) (harmed : s.timerArmed = false) (hreq : ¬s.requesting) :
    s.requestSound := by
  unfold State.requestSound
  rw [hpid, harmed]
  exact ⟨iff_of_false (fun h => h rfl) Bool.false_ne_true, iff_of_false Bool.false_ne_true hreq, nofun⟩

/-- An attempt under way. -/
theorem requestSound_of_running {s : State} (hpid : s.outPid ≠ 0#16) (harmed : s.timerArmed = true) (hreq : s.requesting)
    (hattempt : 1 ≤ s.attempt.toNat ∧ s.attempt.toNat ≤ s.retry.toNat) : s.requestSound :=
  ⟨iff_of_true hpid harmed, iff_of_true harmed hreq, fun _ => hattempt⟩

theorem State.requestSound.unarmed {s : State} (hs : s.requestSound) (hpid : s.outPid = 0#16) : s.timerArmed = false :=
  Bool.eq_false_iff.mpr fun harmed => hs.1.mpr harmed hpid

/-- A recorded resync fault is a fault. -/
theorem faulted_fault_ne_clear {c : PeFault} (hc : c ≠ .clear) (s : State) : (faulted c s).fault ≠ .clear := by
  rw [faulted_fault]
  split
  next => exact hc
  next hs => exact hs

theorem IsResyncFault.ne_clear {c : PeFault} (hc : IsResyncFault c) : c ≠ .clear := by
  obtain rfl | rfl := hc <;> decide

/-- What IRQ.TXDONE and TIMER.EXPIRE ensure of the states in which they run an operation: the end of an Acknowledge or a
Broadcast is no Request's, and a retry is one more attempt of a request under way. -/
structure RunsOn (i : Instr) (s : State) : Prop where
  finishes : i = .txdoneAck ∨ i = .txdoneBcast → s.curKind ≠ some .req
  retries : i = .timerRetry → s.timerArmed = true ∧ s.attempt.toNat < s.retry.toNat

theorem RunsOn.of_other {i : Instr} (hi : i ∉ [Instr.txdoneAck, .txdoneBcast, .timerRetry]) (s : State) : RunsOn i s := by
  simp only [List.mem_cons, List.not_mem_nil, or_false, not_or] at hi
  obtain ⟨hack, hbcast, hretry⟩ := hi
  exact ⟨fun h => (h.elim hack hbcast).elim, fun h => (hretry h).elim⟩

theorem Outcome.requestSound {i : Instr} {s t : State} (h : Outcome i s t) (hrun : RunsOn i s) (hclear : t.fault = .clear)
    (hs : s.requestSound) : t.requestSound := by
  have faultless {P : Prop} {c : PeFault} {u : State} (hc : c ≠ .clear) (hu : (faulted c u).fault = .clear) : P :=
    absurd hu (faulted_fault_ne_clear hc u)
  cases h with
  | refused => exact faultless (by decide) hclear
  | requestFault _ c _ _ _ hc => exact faultless hc.ne_clear hclear
  | sendFault _ _ _ c _ _ _ hc => exact faultless hc.ne_clear hclear
  | listenFault _ _ _ c _ _ hc => exact faultless hc.ne_clear hclear
  | resumeFault _ _ _ c _ hc => exact faultless hc.ne_clear hclear
  | answerFault _ _ c _ _ hc => exact faultless hc.ne_clear hclear
  | awaitFault _ c hc => exact faultless hc.ne_clear hclear
  | retryFault _ c _ hc => exact faultless hc.ne_clear hclear
  | abandoned _ ha => exact requestSound_of_idle ha.2 (hs.unarmed ha.2) (by simp)
  | requested _ f ha hp hr =>
    refine requestSound_of_running (by simpa using nextPid_ne_zero s) rfl ⟨by simp, .inl rfl⟩ ?_
    have hretry : s.retryReg.toNat ≠ 0 := fun h0 => hr (BitVec.eq_of_toNat_eq h0)
    simp only [transmitted_attempt, transmitted_retry, requestCopied_attempt, requestCopied_retry, BitVec.toNat_ofNat]
    omega
  | sent _ _ k f hi ha =>
    have hk : k ≠ .req := by obtain ⟨-, rfl⟩ | ⟨-, rfl⟩ := hi <;> decide
    exact requestSound_of_idle (by simpa using ha.2) (by simpa using hs.unarmed ha.2) (by simp [hk])
  | settled => exact requestSound_of_idle (by simp) rfl (by simp)
  | matchedIdle _ p hd hp hidle =>
    have harmed : s.timerArmed = false := Bool.eq_false_iff.mpr fun ha => hidle (hs.2.1.mp ha)
    exact requestSound_of_idle (by simp) (by simpa using harmed) (by simpa using hidle)
  | awaitAck =>
    refine hs.congr (by simp) (by simp) ?_ (by simp) (by simp)
    simp only [State.requesting, resumed_opKind]
    split
    next h => simp [h]
    next => rfl
  | finished _ _ hi =>
    refine hs.congr rfl rfl ?_ rfl rfl
    simp only [State.requesting]
    split
    next h =>
      have hother : s.opKind ≠ some .req := fun hreq => hrun.finishes hi (h.2.symm.trans hreq)
      simp [hother]
    next => rfl
  | retried =>
    obtain ⟨harmed, hlt⟩ := hrun.retries rfl
    refine requestSound_of_running (by simpa using hs.1.mpr harmed) rfl ⟨?_, .inl rfl⟩ ?_
    · simpa using (hs.2.1.mp harmed).1
    · have hretry := s.retry.isLt
      simp only [transmitted_attempt, transmitted_retry, BitVec.toNat_add, BitVec.toNat_ofNat]
      omega
  | timedOut => exact requestSound_of_idle rfl rfl (by simp)
  | resumed _ _ u f hu =>
    obtain ⟨log, evq, trace, rfl⟩ := hu.eq_update
    exact hs.congr (by simp) (by simp) (by simp [State.requesting]) (by simp) (by simp)
  | tooLarge | modeSame | standby | modeOnly | listen | popped | answered | spurious =>
    exact hs.congr (by simp) (by simp) (by simp [State.requesting]) (by simp) (by simp)

/-- The branches of IRQ.TXDONE run a one-way frame's handler only on a one-way frame. -/
theorem exec_requestSound {i : Instr} {s t : State} (h : exec i s = .next t) (hrun : RunsOn i s) (hclear : t.fault = .clear)
    (hs : s.requestSound) : t.requestSound := by
  cases hi : isIrq i with
  | false => exact (exec_outcome hi h).requestSound hrun hclear hs
  | true =>
    cases exec_irqOutcome hi h with
    | hopIgnored | hopFollowed | hopFault | unrecognised => exact hs
    | txdone snap _ handler _ hk ho =>
      refine ho.requestSound ⟨fun hone => ?_, fun hretry => ?_⟩ hclear hs
      · obtain ⟨-, rfl⟩ | ⟨hkind, -⟩ | ⟨-, rfl⟩ := hk
        · exact nomatch hone
        · rintro (hreq : s.curKind = some .req)
          simp [hreq] at hkind
        · exact nomatch hone
      · obtain ⟨-, rfl⟩ | ⟨-, rfl⟩ | ⟨-, rfl⟩ := hk <;> cases hretry
    | crcError _ _ _ _ ho => exact ho.requestSound (.of_other (by simp) _) hclear hs
    | frame _ _ handler _ _ hk ho =>
      refine ho.requestSound (.of_other ?_ _) hclear hs
      obtain rfl | ⟨p, -, ⟨-, rfl⟩ | ⟨-, rfl⟩ | ⟨-, rfl⟩ | rfl⟩ := hk <;> simp

/-- No CMD word selects an operation that is not the host's. -/
theorem runsOn_of_decode_cmd {b : IrqBits} {w : Half} {i : Instr} (h : decode b (.cmd w) = .ok i) (s : State) :
    RunsOn i s := by
  have hall : ∀ i ∈ cmdOperations, i ∉ [Instr.txdoneAck, .txdoneBcast, .timerRetry] := by decide
  exact .of_other (hall i (mem_cmdOperations_of_decode h)) s

theorem runsOn_decodeIrq (b : IrqBits) (snap : Byte) (s : State) : RunsOn (decodeIrq b snap) s := by
  refine .of_other ?_ s
  unfold decodeIrq
  split
  next => simp
  next =>
    split
    next => simp
    next => split <;> simp

/-- A step selects an operation only in a state it may run on. -/
theorem step_requestInvariant {s t : State} (hs : s.requestInvariant) (h : step s = .next t) : t.requestInvariant := by
  intro hclear
  rcases step_cases h with ⟨-, rfl⟩ | ⟨e, rest, -, ⟨-, rfl⟩ | ⟨-, hu⟩ | ⟨hfault, i, u, hx, hsel⟩⟩
  · exact hs hclear
  · exact requestSound_of_idle rfl rfl (by simp [peReset, State.pristine])
  · have hsound : s.requestSound := hs (hu.faultStands.clear hclear)
    refine hsound.congr hu.outPid hu.timerArmed ?_ hu.attempt hu.retry
    rw [State.requesting, hu.opKind, hu.eng]
  · have hsound : s.requestSound := hs hfault
    rcases hsel with ⟨w, -, hd, rfl⟩ | ⟨v, -, rfl, rfl⟩ | ⟨l, -, -, -, rfl, rfl⟩ | ⟨-, harmed, rfl, rfl⟩
    · exact exec_requestSound hx (runsOn_of_decode_cmd hd _) hclear hsound
    · exact exec_requestSound hx (.of_other (by simp) _) hclear hsound
    · exact exec_requestSound hx (runsOn_decodeIrq _ _ _) hclear hsound
    · refine exec_requestSound hx ?_ hclear hsound
      split
      next => exact .of_other (by simp) _
      next hlt => exact ⟨fun hone => (nomatch hone), fun _ => ⟨harmed, Nat.not_le.mp hlt⟩⟩

/-! ### Numbered Requests (R138 (c)) -/

/-- A frame that decodes to a Request has a nonzero packet_id. -/
def Numbered (o : HdrOrder) (frame : List Byte) : Prop :=
  ∀ p, decodeFrame o frame = some p → p.kind = 0#16 → p.pid ≠ 0#16

theorem decodeFrame_frameOnAir (s : State) (dst pid : Half) (k : Kind) {payload : List Byte} (hp : payload.length ≤ 240) :
    decodeFrame s.cfg.hdrOrder (frameOnAir s dst pid k.code payload) = some ⟨s.cfg.nodeId, dst, pid, k.code, payload⟩ :=
  decodeFrame_of_encodeFrame (encodeFrame_of_fits hp)

theorem numbered_of_pid (s : State) (dst : Half) {pid : Half} {payload : List Byte} (hp : payload.length ≤ 240)
    (hpid : pid ≠ 0#16) : Numbered s.cfg.hdrOrder (frameOnAir s dst pid 0#16 payload) := by
  intro p hd _
  cases (decodeFrame_frameOnAir s dst pid .req hp).symm.trans hd
  exact hpid

theorem Kind.code_ne_zero {k : Kind} (hk : k ≠ .req) : k.code ≠ 0#16 := by
  revert hk; cases k <;> decide

theorem numbered_of_kind (s : State) (dst pid : Half) {k : Kind} {payload : List Byte} (hp : payload.length ≤ 240)
    (hk : k ≠ .req) : Numbered s.cfg.hdrOrder (frameOnAir s dst pid k.code payload) := by
  intro p hd hkind
  cases (decodeFrame_frameOnAir s dst pid k hp).symm.trans hd
  exact absurd hkind (Kind.code_ne_zero hk)

/-- Every frame an operation loads is numbered, where a retry has a packet_id to repeat. -/
theorem exec_loads_numbered {i : Instr} {s t : State} (h : exec i s = .next t)
    (hretry : i = .timerRetry → s.outPid ≠ 0#16) : TraceGrows (Numbered s.cfg.hdrOrder) s t := by
  by_cases hi : i = .timerRetry
  · subst hi
    refine (exec_outcome rfl h).traceGrows (fun dst pid payload hp hpid => ?_) fun dst pid k payload hp => ?_
    · refine numbered_of_pid s dst hp (hpid.elim id ?_)
      rintro ⟨-, rfl⟩
      exact hretry rfl
    · exact numbered_of_kind s dst pid hp
  · -- The configuration is the same all along a branch, and no handler is a retry.
    have hbranch := traceGrows_branchClosed (Numbered s.cfg.hdrOrder)
    let R (u v : State) : Prop := u.cfg = s.cfg → v.cfg = s.cfg ∧ TraceGrows (Numbered s.cfg.hdrOrder) u v
    have hR : BranchClosed R :=
      { trans := fun h h' hc => ⟨(h' (h hc).1).1, (h hc).2.trans (h' (h hc).1).2⟩
        snapTaken := fun u snap hc => ⟨hc, hbranch.snapTaken u snap⟩
        frameTaken := fun u hc => ⟨hc, hbranch.frameTaken u⟩
        hopFollowed := fun f u hc => ⟨hc, hbranch.hopFollowed f u⟩
        hopFault := fun c u hcf hc => ⟨hc, hbranch.hopFault c u hcf⟩
        unrecognised := fun n u hc => ⟨hc, hbranch.unrecognised n u⟩ }
    refine (exec_of_handler hR (fun handler u v hh ho hc => ⟨ho.inputsKept.cfg.trans hc, ?_⟩) h rfl).2
    rw [← hc]
    refine ho.traceGrows (fun dst pid payload hp hpid => ?_) fun dst pid k payload hp => numbered_of_kind u dst pid hp
    refine numbered_of_pid u dst hp (hpid.elim id ?_)
    rintro ⟨rfl, -⟩
    exact hh.elim (fun h => absurd h.symm hi) nofun

theorem step_requestsNumbered {s t : State} (hinv : s.requestInvariant) (hs : s.requestsNumbered) (h : step s = .next t) :
    t.requestsNumbered := by
  suffices hgrows : t.cfg = s.cfg ∧ TraceGrows (Numbered s.cfg.hdrOrder) s t by
    obtain ⟨hcfg, more, htrace, hmore⟩ := hgrows
    intro frame hf
    rw [htrace] at hf
    rw [hcfg]
    exact (List.mem_append.mp hf).elim (hs frame) (hmore frame)
  rcases step_cases h with ⟨-, rfl⟩ | ⟨e, rest, -, ⟨-, rfl⟩ | ⟨-, hu⟩ | ⟨hfault, i, u, hx, hsel⟩⟩
  · exact ⟨rfl, .refl _ _⟩
  · exact ⟨rfl, (TraceGrows.refl _ s).congr rfl rfl⟩
  · exact ⟨hu.cfg, (TraceGrows.refl _ s).congr rfl hu.trace⟩
  · have hentry : u.cfg = s.cfg ∧ u.outPid = s.outPid ∧ TraceGrows (Numbered s.cfg.hdrOrder) s u := by
      rcases hsel with ⟨-, -, -, rfl⟩ | ⟨-, -, -, rfl⟩ | ⟨l, -, -, -, -, rfl⟩ | ⟨-, -, -, rfl⟩
      · exact ⟨rfl, rfl, (TraceGrows.refl _ s).congr rfl rfl⟩
      · exact ⟨rfl, rfl, (TraceGrows.refl _ s).congr rfl rfl⟩
      · exact ⟨rfl, rfl, .of_append _ rfl (by simp)⟩
      · exact ⟨rfl, rfl, (TraceGrows.refl _ s).congr rfl rfl⟩
    obtain ⟨hcfg, hpid, hgrows⟩ := hentry
    have hretry : i = .timerRetry → u.outPid ≠ 0#16 := by
      rintro rfl
      rcases hsel with ⟨w, -, hd, -⟩ | ⟨-, -, hi, -⟩ | ⟨l, -, -, -, hi, -⟩ | ⟨-, harmed, -, -⟩
      · exact nomatch (encode_of_decode hd).1
      · exact nomatch hi
      · have henc := (encode_decodeIrq s.cfg.irqBits s.radio.irq).1
        rw [← hi] at henc
        exact nomatch henc
      · rw [hpid]
        exact (hinv hfault).1.mpr harmed
    have hloads := exec_loads_numbered hx hretry
    rw [hcfg] at hloads
    exact ⟨(exec_inputsKept hx).cfg.trans hcfg, hgrows.trans hloads⟩

end Sys2Proof.Machine

namespace Sys2Proof.Proofs

open Sys2Proof.Machine Sys2Proof.Claims

/-- Settles O55. -/
theorem stepKeepsRequestInvariant : Obligations.StepKeepsRequestInvariant := fun _ _ => step_requestInvariant

/-- Settles O56: every new Request carries a draw, or on a retry the outstanding packet_id, which the request invariant
makes nonzero. -/
theorem stepKeepsRequestsNumbered : Obligations.StepKeepsRequestsNumbered := fun _ _ => step_requestsNumbered

end Sys2Proof.Proofs
end

section
/-! SUPPORT. The moves of the engine (R137): which handlers write `s.eng`, from where to where, and which step runs them; with the
settling of the statement. -/

namespace Sys2Proof.Machine

open Sys2Proof.Claims

/-- What a handler may do to the engine's state, and when. -/
inductive EngMove (i : Instr) (s : State) : Eng → Prop where
  | stands : EngMove i s s.eng
  | requests (hi : i = .sendReq) (ha : sendAccepted s) (hp : s.plenReg.toNat ≤ 240) (hr : s.retryReg ≠ 0#8) : EngMove i s .awTx
  | abandons (hi : i = .sendReq) (ha : sendAccepted s) (hp : s.plenReg.toNat ≤ 240) (hr : s.retryReg = 0#8) : EngMove i s .done
  | sends (hi : i = .sendAck ∨ i = .sendBcast) (ha : sendAccepted s) (hp : s.plenReg.toNat ≤ 240) : EngMove i s .awTx
  | settles (hi : i = .rxAck) (p : Packet) (hd : decodeFrame s.cfg.hdrOrder s.radio.rxFrame = some p) (hp : p.pid = s.outPid)
      (hreq : s.requesting) : EngMove i s .done
  | awaits (hi : i = .txdoneReq) (he : s.eng = .awTx) (hreq : s.opKind = some .req) : EngMove i s .awAck
  | finishes (hi : i = .txdoneAck ∨ i = .txdoneBcast) (he : s.eng = .awTx) (hk : s.opKind = s.curKind) : EngMove i s .done
  | retries (hi : i = .timerRetry) : EngMove i s .awTx
  | expires (hi : i = .timerFinal) : EngMove i s .done

theorem EngMove.of_eq (i : Instr) {s : State} {e : Eng} (h : e = s.eng) : EngMove i s e := h ▸ .stands

theorem Outcome.engMove {i : Instr} {s t : State} (h : Outcome i s t) : EngMove i s t.eng := by
  cases h with
  | abandoned _ ha hp hr => exact .abandons rfl ha hp hr
  | requested _ f ha hp hr => exact .requests rfl ha hp hr
  | sent _ _ k f hi ha hp => exact .sends (hi.imp And.left And.left) ha hp
  | settled _ p hd hp hreq => exact .settles rfl p hd hp hreq
  | awaitAck =>
    split
    next h => exact .awaits rfl h.1 h.2
    next => exact .stands
  | finished _ _ hi =>
    split
    next h => exact .finishes hi h.1 h.2
    next => exact .stands
  | retried => exact .retries rfl
  | timedOut => exact .expires rfl
  | resumed _ _ u f hu => obtain ⟨log, evq, trace, rfl⟩ := hu.eq_update; exact .of_eq _ (by simp)
  | resumeFault _ _ u c hu => obtain ⟨log, evq, trace, rfl⟩ := hu.eq_update; exact .of_eq _ (by simp)
  | _ => exact .of_eq _ (by simp)

theorem isIrq_of_decode_cmd {b : IrqBits} {w : Half} {i : Instr} (h : decode b (.cmd w) = .ok i) : isIrq i = false := by
  have hall : ∀ i ∈ cmdOperations, isIrq i = false := by decide
  exact hall i (mem_cmdOperations_of_decode h)

theorem isIrq_decodeIrq (b : IrqBits) (snap : Byte) : isIrq (decodeIrq b snap) = true := by
  unfold decodeIrq
  split
  next => rfl
  next =>
    split
    next => rfl
    next => split <;> rfl

/-- A snapshot that selects an operation is its operand, and its flags are those of the operation's row. -/
theorem wellFormed_of_decodeIrq {b : IrqBits} {irq snap : Byte} {i : Instr} (hi : i = decodeIrq b irq)
    (hsnap : encode i = .irq snap) : snap = irq ∧ i.wellFormed b = true := by
  obtain ⟨henc, hw⟩ := encode_decodeIrq b irq
  rw [← hi] at henc hw
  exact ⟨Selector.irq.inj (hsnap.symm.trans henc), hw⟩

/-! ### The table, input by input -/

/-- The rows of a CMD word. -/
theorem engMove_cmd {b : IrqBits} {s t : State} {w : Half} {i : Instr} (hd : decode b (.cmd w) = .ok i)
    (hm : EngMove i s t.eng) (hne : t.eng ≠ s.eng) :
    (s.eng = .idle ∨ s.eng = .done) ∧ s.plenReg.toNat ≤ 240 ∧
      (w = 0x0001#16 ∧ (s.retryReg ≠ 0#8 ∧ t.eng = .awTx ∨ s.retryReg = 0#8 ∧ t.eng = .done) ∨
        (w = 0x0011#16 ∨ w = 0x0021#16) ∧ t.eng = .awTx) := by
  obtain ⟨henc, -⟩ := encode_of_decode hd
  have rest (ha : sendAccepted s) : s.eng = .idle ∨ s.eng = .done := by
    obtain ⟨⟨htx, hack, -⟩, -⟩ := ha
    cases he : s.eng with
    | idle => exact .inl rfl
    | done => exact .inr rfl
    | awTx => exact absurd he htx
    | awAck => exact absurd he hack
  generalize t.eng = target at hm hne ⊢
  cases hm with
  | stands => exact absurd rfl hne
  | requests hi ha hp hr =>
    subst hi
    exact ⟨rest ha, hp, .inl ⟨(Selector.cmd.inj henc).symm, .inl ⟨hr, rfl⟩⟩⟩
  | abandons hi ha hp hr =>
    subst hi
    exact ⟨rest ha, hp, .inl ⟨(Selector.cmd.inj henc).symm, .inr ⟨hr, rfl⟩⟩⟩
  | sends hi ha hp =>
    refine ⟨rest ha, hp, .inr ⟨?_, rfl⟩⟩
    obtain rfl | rfl := hi
    · exact .inl (Selector.cmd.inj henc).symm
    · exact .inr (Selector.cmd.inj henc).symm
  | settles hi | awaits hi | retries hi | expires hi => subst hi; cases henc
  | finishes hi => obtain rfl | rfl := hi <;> cases henc

/-- The moves a dispatch branch's handler can make. -/
theorem EngMove.handler_cases {i : Instr} {s : State} {e : Eng} (hm : EngMove i s e) (hh : isHandler i = true)
    (hne : e ≠ s.eng) :
    (i = .rxAck ∧ (∃ p, decodeFrame s.cfg.hdrOrder s.radio.rxFrame = some p ∧ p.pid = s.outPid) ∧ s.requesting ∧ e = .done) ∨
      (i = .txdoneReq ∧ s.eng = .awTx ∧ s.opKind = some .req ∧ e = .awAck) ∨
      ((i = .txdoneAck ∨ i = .txdoneBcast) ∧ s.eng = .awTx ∧ s.opKind = s.curKind ∧ e = .done) := by
  cases hm with
  | stands => exact absurd rfl hne
  | settles hi p hd hp hreq => exact .inl ⟨hi, ⟨p, hd, hp⟩, hreq, rfl⟩
  | awaits hi he hreq => exact .inr (.inl ⟨hi, he, hreq, rfl⟩)
  | finishes hi he hk => exact .inr (.inr ⟨hi, he, hk, rfl⟩)
  | requests hi | abandons hi | retries hi | expires hi => subst hi; cases hh
  | sends hi => obtain rfl | rfl := hi <;> cases hh

/-- The rows of a dispatch: a TxDone of the host's own frame, or a matching Acknowledge. -/
theorem exec_irq_eng {s t : State} {i : Instr} (hi : isIrq i = true) (h : exec i s = .next t) (hne : t.eng ≠ s.eng) :
    ∃ snap,
      (i = .irqTxdone snap ∧ s.eng = .awTx ∧
        (s.curKind = some .req ∧ s.opKind = some .req ∧ t.eng = .awAck ∨
          (s.curKind = some .ack ∨ s.curKind = some .bcast) ∧ s.opKind = s.curKind ∧ t.eng = .done)) ∨
      (i = .irqRxdone snap ∧ snap.getLsbD s.cfg.irqBits.crc = false ∧ s.requesting ∧
        (∃ p, decodeFrame s.cfg.hdrOrder s.radio.rxFrame = some p ∧ p.kind = 1#16 ∧ p.pid = s.outPid) ∧ t.eng = .done) := by
  cases exec_irqOutcome hi h with
  | hopIgnored | hopFollowed | hopFault | unrecognised => exact absurd rfl hne
  | crcError _ _ _ _ ho =>
    rcases ho.engMove.handler_cases rfl hne with ⟨hi, -⟩ | ⟨hi, -⟩ | ⟨hi | hi, -⟩ <;> cases hi
  | txdone snap _ handler _ hk ho =>
    refine ⟨snap, .inl ⟨rfl, ?_⟩⟩
    rcases hk with ⟨hkind, rfl⟩ | ⟨hkind, rfl⟩ | ⟨-, rfl⟩
    · obtain ⟨hi, -⟩ | ⟨-, he, hreq, ht⟩ | ⟨hi | hi, -⟩ := ho.engMove.handler_cases rfl hne
      · cases hi
      · exact ⟨he, .inl ⟨hkind, hreq, ht⟩⟩
      all_goals cases hi
    · obtain ⟨hi, -⟩ | ⟨hi, -⟩ | ⟨-, he, hown, ht⟩ := ho.engMove.handler_cases rfl hne
      · cases hi
      · cases hi
      · exact ⟨he, .inr ⟨hkind, hown, ht⟩⟩
    · obtain ⟨hi, -⟩ | ⟨hi, -⟩ | ⟨hi | hi, -⟩ := ho.engMove.handler_cases rfl hne <;> cases hi
  | frame snap _ handler _ hcrc hk ho =>
    have hh : isHandler handler = true := by
      obtain rfl | ⟨p, -, ⟨-, rfl⟩ | ⟨-, rfl⟩ | ⟨-, rfl⟩ | rfl⟩ := hk <;> rfl
    obtain ⟨rfl, ⟨p, hd, hp⟩, hreq, ht⟩ | ⟨rfl, -⟩ | ⟨rfl | rfl, -⟩ := ho.engMove.handler_cases hh hne
    · obtain hi | ⟨p', hd', ⟨-, hi⟩ | ⟨hkind, -⟩ | ⟨-, hi⟩ | hi⟩ := hk
      · cases hi
      · cases hi
      · cases hd'.symm.trans hd
        exact ⟨snap, .inr ⟨rfl, hcrc, hreq, ⟨p, hd, hkind, hp⟩, ht⟩⟩
      all_goals cases hi
    all_goals obtain hi | ⟨p, -, ⟨-, hi⟩ | ⟨-, hi⟩ | ⟨-, hi⟩ | hi⟩ := hk <;> cases hi

/-- A retry that moves the engine has transmitted. -/
theorem exec_timerRetry_eng {s t : State} (h : exec .timerRetry s = .next t) (hne : t.eng ≠ s.eng) : t.eng = .awTx := by
  have hm := (exec_outcome rfl h).engMove
  generalize t.eng = e at hm hne ⊢
  cases hm with
  | stands => exact absurd rfl hne
  | retries => rfl
  | requests hi | abandons hi | settles hi | awaits hi | expires hi => cases hi
  | sends hi | finishes hi => obtain hi | hi := hi <;> cases hi

theorem exec_timerFinal_eng {s t : State} (h : exec .timerFinal s = .next t) : t.eng = .done := by
  cases h
  rfl

end Sys2Proof.Machine

namespace Sys2Proof.Proofs

open Sys2Proof.Machine Sys2Proof.Claims

/-- Settles O53, by the input that selects the operation; the request invariant says that an armed timer is a request's. -/
theorem engineChangesOnlyByTheTable : Obligations.EngineChangesOnlyByTheTable := by
  intro s t e rest hinv hs he h hne flag
  rcases step_cases h with ⟨hnil, -⟩ | ⟨e', rest', hs', hstep⟩
  · rw [hs] at hnil; cases hnil
  obtain ⟨rfl, rfl⟩ : e = e' ∧ rest = rest' := List.cons.inj (hs.symm.trans hs')
  rcases hstep with ⟨hreset, -⟩ | ⟨-, hu⟩ | ⟨hfault, i, u, hx, hsel⟩
  · exact absurd hreset he
  · exact absurd hu.eng hne
  rcases hsel with ⟨w, rfl, hd, rfl⟩ | ⟨v, rfl, rfl, rfl⟩ | ⟨l, rfl, -, -, hi, rfl⟩ | ⟨rfl, harmed, hi, rfl⟩
  · -- A CMD word.
    have hm := (exec_outcome (isIrq_of_decode_cmd hd) hx).engMove
    obtain ⟨hrest, hp, ⟨rfl, hto⟩ | ⟨rfl | rfl, hto⟩⟩ := engMove_cmd hd hm hne
    · exact .inl ⟨hrest, hp, .inl ⟨rfl, hto⟩⟩
    · exact .inl ⟨hrest, hp, .inr ⟨.inl rfl, hto⟩⟩
    · exact .inl ⟨hrest, hp, .inr ⟨.inr rfl, hto⟩⟩
  · -- EVQ_POP.
    cases hx
    exact absurd rfl hne
  · -- A dispatch.
    have hirq : isIrq i = true := hi ▸ isIrq_decodeIrq _ _
    obtain ⟨snap, ⟨rfl, he, hrow⟩ | ⟨rfl, hcrc, ⟨hreq, he⟩, hack, ht⟩⟩ := exec_irq_eng hirq hx hne
    · obtain ⟨rfl, hw⟩ := wellFormed_of_decodeIrq hi rfl
      exact .inr (.inl ⟨he, ⟨l, rfl⟩, (flagSet_eq _ _).trans hw, hrow⟩)
    · obtain ⟨rfl, hw⟩ := wellFormed_of_decodeIrq hi rfl
      simp only [Instr.wellFormed, Bool.and_eq_true, Bool.not_eq_true'] at hw
      exact .inr (.inr (.inl ⟨he, hreq, ⟨l, rfl⟩, (flagSet_eq _ _).trans hw.1, (flagSet_eq _ _).trans hw.2,
        (flagSet_eq _ _).trans hcrc, hack, ht⟩))
  · -- A timer expiry.
    have hreq : s.requesting := (hinv hfault).2.1.mp harmed
    refine .inr (.inr (.inr ⟨rfl, hreq.2, harmed, ?_⟩))
    split at hi
    next hle => subst hi; exact .inr ⟨hle, exec_timerFinal_eng hx⟩
    next hlt => subst hi; exact .inl ⟨Nat.not_le.mp hlt, exec_timerRetry_eng hx hne⟩

end Sys2Proof.Proofs
end

section
/-! SUPPORT. What one input does: the operation it selects, the accesses the host map refuses, the operand registers and PE reset
(R36, R37, R43, R141, R149, R176, R194); with the settling of the statements on the step. -/

namespace Sys2Proof.Machine

open Sys2Proof.Claims

/-! ### Inputs that select an operation (R36, R132, R141) -/

theorem select_ok {sel : Selector} {s : State} {i : Instr} (h : decode s.cfg.irqBits sel = .ok i) :
    select sel s = .operation i s := by
  simp only [select, h]

theorem dispatchEnabled_iff (l : Line) (s : State) :
    dispatchEnabled l s = true ↔ s.edge l = true ∧ s.fault = .clear ∧ s.evq.length < s.cfg.qdepth := by
  simp only [dispatchEnabled, Bool.and_eq_true, decide_eq_true_eq, and_assoc]

theorem timerEnabled_iff (s : State) : timerEnabled s = true ↔ s.timerArmed = true ∧ s.fault = .clear := by
  simp only [timerEnabled, Bool.and_eq_true, decide_eq_true_eq]

theorem edge_update_script (s : State) (rest : List Event) (l : Line) : State.edge { s with script := rest } l = s.edge l := by
  cases l <;> rfl

/-- An enabled dispatch runs the operation its snapshot selects, after the entry of R141. -/
theorem fetch_dispatch {l : Line} {s : State} {i : Instr} (h : dispatchEnabled l s = true)
    (hd : decode s.cfg.irqBits (.irq s.radio.irq) = .ok i) : fetch (.dispatch l) s = .operation i (dispatched l s) := by
  rw [← enterDispatch_eq]
  refine (if_pos h).trans (select_ok ?_)
  rw [enterDispatch_eq]
  exact hd

theorem fetch_dispatch_held {l : Line} {s : State} (h : ¬dispatchEnabled l s = true) : fetch (.dispatch l) s = .done s :=
  if_neg h

/-- The TIMER selector as the statements write it (R77). -/
theorem timerSelector_eq (s : State) : timerSelector s = if s.retry.toNat ≤ s.attempt.toNat then 1#1 else 0#1 := by
  unfold timerSelector
  split
  next h => rw [decide_eq_true h]; rfl
  next h => rw [decide_eq_false h]; rfl

theorem fetch_timerExpire {s : State} {i : Instr} (h : timerEnabled s = true)
    (hd : decode s.cfg.irqBits (.timer (timerSelector s)) = .ok i) : fetch .timerExpire s = .operation i s :=
  (if_pos h).trans (select_ok hd)

theorem fetch_timerExpire_held {s : State} (h : ¬timerEnabled s = true) : fetch .timerExpire s = .done s := if_neg h

/-- A write to CMD or EVQ_POP under a fault is no step (R36, R176). -/
theorem fetchOperation_of_fault {s : State} (hf : s.fault ≠ .clear) (r : HostReg) (o : BitVec 10) (v : Half) :
    fetchOperation r o v s = .done s := if_neg hf

/-! ### The host map (R30, R37, R43) -/

/-- The byte registers of R30; the map is small enough to be read off by evaluation. -/
theorem accessed_byte_eq_none : ∀ o : BitVec 10,
    ¬(o.toNat ∈ [0x004, 0x005, 0x00A, 0x00B, 0x00E, 0x00F, 0x010, 0x011, 0x012, 0x013, 0x014, 0x015] ∨
      (0x100 ≤ o.toNat ∧ o.toNat ≤ 0x2FE)) → accessed .byte o = none := by
  decide +kernel

/-- The 16-bit registers of R30. -/
theorem accessed_half_eq_none : ∀ o : BitVec 10,
    o.toNat ∉ [0x000, 0x002, 0x006, 0x008, 0x00C, 0x016] → accessed .half o = none := by
  decide +kernel

/-- The registers a host may write (R37). -/
def HostReg.writable : HostReg → Bool
  | .cmd | .dest | .retry | .plen | .timeout | .evqPop | .payload _ => true
  | _ => false

theorem writeRegister_of_readOnly {r : HostReg} (h : r.writable = false) (v : Half) (s : State) :
    writeRegister r v s = .illegal := by
  cases r with
  | cmd | dest | retry | plen | timeout | evqPop | payload => cases h
  | _ => rfl

theorem accessed_byte_readOnly : ∀ o : BitVec 10,
    ¬(o.toNat ∈ [0x004, 0x005, 0x012] ∨ (0x200 ≤ o.toNat ∧ o.toNat ≤ 0x2FE)) →
      ∀ r ∈ accessed .byte o, r.writable = false := by
  decide +kernel

theorem accessed_half_readOnly : ∀ o : BitVec 10,
    o.toNat ∉ [0x000, 0x002, 0x006] → ∀ r ∈ accessed .half o, r.writable = false := by
  decide +kernel

theorem hostRead_of_illegal {w : Width} {o : BitVec 10} (h : accessed w o = none) (s : State) :
    hostRead w o s = { hostFault s with hostData := none } := by
  simp only [hostRead, h]

theorem fetchWrite_of_illegal {w : Width} {o : BitVec 10} (h : ∀ r ∈ accessed w o, r.writable = false) (v : Half)
    (s : State) : fetchWrite w o v s = .done (hostFault s) := by
  have htarget : hostWriteTarget w o v s = .illegal := by
    unfold hostWriteTarget
    split
    next r hr => exact writeRegister_of_readOnly (h r hr) v s
    next => rfl
  rw [fetchWrite, htarget]

theorem fetchWrite_of_stored {w : Width} {o : BitVec 10} {r : HostReg} {v : Half} {s t : State} (hr : accessed w o = some r)
    (ht : writeRegister r v s = .stored t) : fetchWrite w o v s = .done t := by
  have htarget : hostWriteTarget w o v s = .stored t := by simp only [hostWriteTarget, hr, ht]
  rw [fetchWrite, htarget]

/-- PAYLOAD[i] is the byte register at 0x200 + i (R30). -/
theorem accessed_payload_offset {i : Nat} (hi : i ≤ 254) :
    accessed .byte (BitVec.ofNat 10 (0x200 + i)) = some (.payload i) := by
  have ho : (BitVec.ofNat 10 (0x200 + i)).toNat = 0x200 + i := by
    rw [BitVec.toNat_ofNat]; omega
  have hreg : hostRegAt (BitVec.ofNat 10 (0x200 + i)) = some (.payload i) := by
    unfold hostRegAt
    rw [ho]
    repeat rw [if_neg (by omega)]
    rw [if_pos (by omega), Nat.add_sub_cancel_left]
  simp only [accessed, hreg, HostReg.width, if_true]

/-- A byte that an 8-bit access carries is the byte the register takes. -/
theorem setWidth_byte (v : Byte) : (v.setWidth 16).setWidth 8 = v := by
  rw [BitVec.setWidth_setWidth_of_le v (by decide), BitVec.setWidth_eq]

/-! ### The steps of a host access -/

theorem step_write8_stored {s t : State} {o : BitVec 10} {v : Byte} {rest : List Event} {r : HostReg}
    (hs : s.script = .write8 o v :: rest) (hr : accessed .byte o = some r)
    (ht : writeRegister r (v.setWidth 16) { s with script := rest } = .stored t) : step s = .next t :=
  step_of_fetch_done hs (fetchWrite_of_stored hr ht)

theorem step_write16_stored {s t : State} {o : BitVec 10} {v : Half} {rest : List Event} {r : HostReg}
    (hs : s.script = .write16 o v :: rest) (hr : accessed .half o = some r)
    (ht : writeRegister r v { s with script := rest } = .stored t) : step s = .next t :=
  step_of_fetch_done hs (fetchWrite_of_stored hr ht)

theorem step_write_dest {s : State} {v : Half} {rest : List Event} (hs : s.script = .write16 0x002#10 v :: rest) :
    step s = .next { s with script := rest, destReg := v } := step_write16_stored hs rfl rfl

theorem step_write_timeout {s : State} {v : Half} {rest : List Event} (hs : s.script = .write16 0x006#10 v :: rest) :
    step s = .next { s with script := rest, timeoutReg := v } := step_write16_stored hs rfl rfl

theorem step_write_retry {s : State} {v : Byte} {rest : List Event} (hs : s.script = .write8 0x004#10 v :: rest) :
    step s = .next { s with script := rest, retryReg := v } :=
  step_write8_stored hs rfl (by rw [writeRegister, setWidth_byte])

theorem step_write_plen {s : State} {v : Byte} {rest : List Event} (hs : s.script = .write8 0x005#10 v :: rest) :
    step s = .next { s with script := rest, plenReg := v } :=
  step_write8_stored hs rfl (by rw [writeRegister, setWidth_byte])

theorem step_write_payload {s : State} {i : Nat} {v : Byte} {rest : List Event} (hi : i ≤ 254)
    (hs : s.script = .write8 (BitVec.ofNat 10 (0x200 + i)) v :: rest) :
    step s = .next { s with script := rest, mem := Memory.write s.mem (0x200 + i) v } :=
  step_write8_stored hs (accessed_payload_offset hi) (by rw [writeRegister, setWidth_byte])

/-- A step that answers one state and a read step from it answer the register as that state holds it. -/
theorem hostData_of_write_read8 {s t t' u : State} {o : BitVec 10} {r : HostReg} {rest : List Event} {v : Half}
    (ht : step s = .next t) (hu : step t = .next u) (hwrite : step s = .next t') (hscript : t'.script = .read8 o :: rest)
    (hr : accessed .byte o = some r) (hv : readRegister r t' = v) : u.hostData = some v := by
  cases hwrite.symm.trans ht
  cases (step_read8 hscript hr hv).symm.trans hu
  rfl

theorem hostData_of_write_read16 {s t t' u : State} {o : BitVec 10} {r : HostReg} {rest : List Event} {v : Half}
    (ht : step s = .next t) (hu : step t = .next u) (hwrite : step s = .next t') (hscript : t'.script = .read16 o :: rest)
    (hr : accessed .half o = some r) (hv : readRegister r t' = v) : u.hostData = some v := by
  cases hwrite.symm.trans ht
  cases (step_read16 hscript hr hv).symm.trans hu
  rfl

end Sys2Proof.Machine

namespace Sys2Proof.Proofs

open Sys2Proof.Machine Sys2Proof.Claims

/-- Settles O6, input by input. -/
theorem stepRunsSelectedOperation : Obligations.StepRunsSelectedOperation := by
  intro s e rest i hs hfault
  refine ⟨fun w he hd => ?cmd, fun v he hd => ?pop, fun l he hedge hroom hd => ?dispatch, fun he harmed hd => ?timer⟩
  all_goals
    subst he
    rw [step_cons hs]
  case cmd => exact congrArg runFetched ((fetch_cmd (s := { s with script := rest }) hfault w).trans (select_ok hd))
  case pop =>
    cases hd
    exact congrArg runFetched (fetch_evqPop (s := { s with script := rest }) hfault v)
  case dispatch =>
    have henabled : dispatchEnabled l { s with script := rest } = true :=
      (dispatchEnabled_iff l _).mpr ⟨(edge_update_script s rest l).trans hedge, hfault, hroom⟩
    exact congrArg runFetched (fetch_dispatch henabled hd)
  case timer =>
    have henabled : timerEnabled { s with script := rest } = true := (timerEnabled_iff _).mpr ⟨harmed, hfault⟩
    rw [← timerSelector_eq] at hd
    exact congrArg runFetched (fetch_timerExpire henabled hd)

/-- Settles O9. -/
theorem dispatchHeldUnlessEnabled : Obligations.DispatchHeldUnlessEnabled := by
  intro s l rest hs hheld
  have hdisabled : ¬dispatchEnabled l { s with script := rest } = true := by
    rw [dispatchEnabled_iff, edge_update_script]
    rintro ⟨hedge, hfault, hroom⟩
    rcases hheld with hno | hset | hfull
    · rw [hno] at hedge; cases hedge
    · exact hset hfault
    · exact Nat.not_lt.mpr hfull hroom
  exact step_of_fetch_done hs (fetch_dispatch_held hdisabled)

/-- Settles O10. -/
theorem operandWriteChangesOnlyItsRegister : Obligations.OperandWriteChangesOnlyItsRegister :=
  fun _ _ => ⟨fun _ => step_write_dest, fun _ => step_write_retry, fun _ => step_write_plen, fun _ => step_write_timeout⟩

/-- Settles O11, by the two laws of the byte storage. -/
theorem payloadWriteStoresOneByte : Obligations.PayloadWriteStoresOneByte :=
  fun s i v _ hi hs hwf => ⟨Memory.write s.mem (0x200 + i) v, step_write_payload hi hs, Memory.read_write_same _ v hwf,
    fun _ ha => Memory.read_write_other s.mem v ha⟩

/-- Settles O12: each write's step, then the read of the same register. -/
theorem operandReadsBackLastWrite : Obligations.OperandReadsBackLastWrite := by
  refine fun s t u rest => ⟨fun v hs ht hu => ?dest, fun v hs ht hu => ?timeout, fun v hs ht hu => ?retry,
    fun v hs ht hu => ?plen, fun v i hi hwf hs ht hu => ?payload⟩
  case dest => exact hostData_of_write_read16 ht hu (step_write_dest hs) rfl rfl rfl
  case timeout => exact hostData_of_write_read16 ht hu (step_write_timeout hs) rfl rfl rfl
  case retry => exact hostData_of_write_read8 ht hu (step_write_retry hs) rfl rfl rfl
  case plen => exact hostData_of_write_read8 ht hu (step_write_plen hs) rfl rfl rfl
  case payload =>
    refine hostData_of_write_read8 ht hu (step_write_payload hi hs) rfl (accessed_payload_offset hi) ?_
    exact congrArg (BitVec.setWidth 16) (Memory.read_write_same (0x200 + i) v hwf)

/-- Settles O13. -/
theorem illegalHostAccessFaults : Obligations.IllegalHostAccessFaults := by
  intro s o rest byteReg halfReg byteWritable halfWritable
  refine ⟨fun hs hno => ?_, fun hs hno => ?_, fun v hs hno => ?_, fun v hs hno => ?_⟩
  · exact step_of_fetch_done hs (congrArg Fetched.done (hostRead_of_illegal (accessed_byte_eq_none o hno) _))
  · exact step_of_fetch_done hs (congrArg Fetched.done (hostRead_of_illegal (accessed_half_eq_none o hno) _))
  · exact step_of_fetch_done hs (fetchWrite_of_illegal (accessed_byte_readOnly o hno) _ _)
  · exact step_of_fetch_done hs (fetchWrite_of_illegal (accessed_half_readOnly o hno) _ _)

/-- Settles O16. -/
theorem resetSetsEveryPeField : Obligations.ResetSetsEveryPeField := fun _ _ hs => step_peReset hs

/-- Settles O18: each of the four inputs is held by its own test of the fault. -/
theorem faultHoldsEveryPeStep : Obligations.FaultHoldsEveryPeStep := by
  intro s e rest hs hfault he
  refine step_of_fetch_done hs ?_
  rcases he with ⟨w, rfl⟩ | ⟨v, rfl⟩ | ⟨l, rfl⟩ | rfl
  · exact fetchOperation_of_fault (s := { s with script := rest }) hfault .cmd 0x000#10 w
  · exact fetchOperation_of_fault (s := { s with script := rest }) hfault .evqPop 0x012#10 (v.setWidth 16)
  · exact fetch_dispatch_held fun h => hfault ((dispatchEnabled_iff l _).mp h).2.1
  · exact fetch_timerExpire_held fun h => hfault ((timerEnabled_iff _).mp h).2

/-- Settles O59. -/
theorem resetMeetsTheInvariants : Obligations.ResetMeetsTheInvariants := by
  refine ⟨fun _ => requestSound_of_idle rfl rfl (by decide), fun _ hf => (nomatch hf), ?range, Nat.zero_le _, ?shadow, .inl rfl,
    rfl, rfl, rfl⟩
  case range => exact ⟨State.reset_memory_wf, Nat.zero_le _, Nat.zero_le _, Nat.zero_le _, fun _ hr => (nomatch hr)⟩
  case shadow => exact ⟨fun _ hm => (nomatch hm), fun htx => (nomatch htx)⟩

end Sys2Proof.Proofs
end

section
/-! SUPPORT. The Mode Controller in full (R86 to R93, R107, R168) and the edges its routing writes raise (R190, R196); with the
settling of the statements of 40_mode_controller.md. -/

namespace Sys2Proof.Machine

open Sys2Proof.Claims

/-! ### The host's mode commands (R87 to R93) -/

theorem exec_of_mem_modeCommands {i : Instr} {m : RadioMode} (h : (i, m) ∈ modeCommands) (s : State) :
    exec i s = (hostSetMode m s).outcome := by
  simp only [modeCommands, List.mem_cons, Prod.mk.injEq, List.not_mem_nil, or_false] at h
  obtain ⟨rfl, rfl⟩ | ⟨rfl, rfl⟩ | ⟨rfl, rfl⟩ | ⟨rfl, rfl⟩ | ⟨rfl, rfl⟩ | ⟨rfl, rfl⟩ := h <;> rfl

/-- A host that may command moves the mode as `set_mode` does. -/
theorem hostSetMode_outcome_of_run {m : RadioMode} {s t : State} (hidle : idleForHost s) (hm : m ≠ .tx)
    (h : setMode m s = .run t) : (hostSetMode m s).outcome = .next t := by
  rw [hostSetMode_idle hidle hm, h, Flow.outcome_run]

theorem exec_modeTx (s : State) : exec .modeTx s = .next (faulted .callerError s) :=
  congrArg Flow.outcome (hostSetMode_refused (.inr rfl))

/-! ### The edges of a routing write (R190, R196) -/

theorem radioWrite_dio_edge0 (dio : Byte) (s : State) :
    (radioWrite .dioMapping1 dio s).edge0 = (s.edge0 || risesOnRemap .line0 dio s) := rfl

theorem radioWrite_dio_edge1 (dio : Byte) (s : State) :
    (radioWrite .dioMapping1 dio s).edge1 = (s.edge1 || risesOnRemap .line1 dio s) := rfl

end Sys2Proof.Machine

namespace Sys2Proof.Proofs

open Sys2Proof.Machine Sys2Proof.Claims

/-- Settles O20. -/
theorem modeCommandsRefusedOrRepeated : Obligations.ModeCommandsRefusedOrRepeated := by
  refine ⟨exec_modeTx, fun i m s hi => ⟨fun hbusy => ?refused, fun hm hidle hsame => ?repeated⟩⟩ <;>
    rw [exec_of_mem_modeCommands hi]
  case refused => rw [hostSetMode_refused (.inl hbusy), Flow.outcome_ended]
  case repeated => exact hostSetMode_outcome_of_run hidle hm (setMode_same hsame)

/-- Settles O21. -/
theorem sleepRxsCadWriteOnlyTheMode : Obligations.SleepRxsCadWriteOnlyTheMode := fun _ hidle =>
  ⟨fun hmode => hostSetMode_outcome_of_run hidle (by decide) (setMode_sleep hmode),
    fun hmode => hostSetMode_outcome_of_run hidle (by decide) (setMode_rxs hmode),
    fun hmode => hostSetMode_outcome_of_run hidle (by decide) (setMode_cad hmode)⟩

/-- Settles O22. -/
theorem standbyUnroutesThenWritesTheMode : Obligations.StandbyUnroutesThenWritesTheMode := by
  intro s hidle hmode
  have hset : setMode .standby s = .run (modeWritten .standby 0b001#3 (routed ⟨.none, .none⟩ 0xFF#8 s)) := by
    rw [setMode_standby, stoodBy, if_neg hmode]
  exact hostSetMode_outcome_of_run hidle (by decide) hset

/-- Settles O23. -/
theorem receiveContinuousEntry : Obligations.ReceiveContinuousEntry :=
  fun _ _ hidle hmode htune => hostSetMode_outcome_of_run hidle (by decide) (setMode_rxc hmode htune)

/-- Settles O24: both faults are raised before the entry's first write. -/
theorem resyncFaultEndsTheEntry : Obligations.ResyncFaultEndsTheEntry := fun _ hidle hmode =>
  ⟨fun hempty => exec_modeRxc_of_resyncFails hidle hmode (.inl ⟨hempty, rfl⟩),
    fun f hentry hover => exec_modeRxc_of_resyncFails hidle hmode (.inr ⟨f, hentry, hover, rfl⟩)⟩

/-- Settles O26: with a known route the write compares the two levels; in the unrouted window only the new one counts. -/
theorem routingRaisesEdges : Obligations.RoutingRaisesEdges := by
  intro s dio flag level0 level1
  have hlevel0 (d : BitVec 8) : lineLevel s.cfg.irqBits .line0 d s.radio.irq = level0 d := by
    simp only [lineLevel_line0, level0, flag, flagSet_eq]
  have hlevel1 (d : BitVec 8) : lineLevel s.cfg.irqBits .line1 d s.radio.irq = level1 d := by
    simp only [lineLevel_line1, level1, flag, flagSet_eq]
  refine ⟨rfl, fun hknown => ⟨?_, ?_⟩, fun hunknown => ⟨?_, ?_⟩⟩
  · rw [radioWrite_dio_edge0, risesOnRemap_routed hknown, hlevel0, hlevel0]
  · rw [radioWrite_dio_edge1, risesOnRemap_routed hknown, hlevel1, hlevel1]
  · rw [radioWrite_dio_edge0, risesOnRemap_unrouted hunknown, hlevel0]
  · rw [radioWrite_dio_edge1, risesOnRemap_unrouted hunknown, hlevel1]

end Sys2Proof.Proofs
end

section
/-! SUPPORT. The host sends and the retry (R113 to R118, R133): what an accepted send runs, whether its transmission completes or
a resync fault ends it; with the settling of the statements on them. -/

namespace Sys2Proof.Machine

open Sys2Proof.Claims

/-! ### Acceptance (R113, R115, R116) -/

theorem not_sendAccepted_of_busy {s : State}
    (h : s.eng = .awTx ∨ s.eng = .awAck ∨ s.outPid ≠ 0#16 ∨ (s.mode = some .tx ∧ s.avail = false)) : ¬sendAccepted s := by
  rintro ⟨⟨htx, hack, hflight⟩, hpid⟩
  obtain h | h | h | h := h
  · exact htx h
  · exact hack h
  · exact h hpid
  · exact hflight h

/-- An accepted SEND.REQ that fits copies its operands first. -/
theorem exec_sendReq_of_accepted {s : State} (ha : sendAccepted s) (hp : s.plenReg.toNat ≤ 240) :
    exec .sendReq s = (acceptRequest (copyRequest s)).outcome := by
  change execSendReq s = _
  rw [execSendReq, sendCheck_accepted ha, Flow.andThen_run, checkSize_fits _ hp]

theorem copyRequest_eq (s : State) : copyRequest s = { s with
    reqDst := s.destReg
    reqPayload := payloadOf s
    retry := s.retryReg
    timeout := s.timeoutReg
    attempt := 0#8
    opKind := some .req } := by
  rw [copyRequest, sendPayload_eq]

/-- With an attempt to make, the request is numbered and its first attempt started. -/
theorem exec_sendReq_of_attempts {s : State} (ha : sendAccepted s) (hp : s.plenReg.toNat ≤ 240) (hr : s.retryReg ≠ 0#8) :
    exec .sendReq s = (startAttempt { requestCopied (nextPid s) s with attempt := 0#8 }).outcome := by
  rw [exec_sendReq_of_accepted ha hp, copyRequest_eq, acceptRequest, if_neg hr]
  rfl

theorem payloadOf_length_le {s : State} (hp : s.plenReg.toNat ≤ 240) : (payloadOf s).length ≤ 240 :=
  (payloadOf_length s).trans_le hp

theorem exec_sendReq_of_tunable {s : State} {f : BitVec 32} (ha : sendAccepted s) (hp : s.plenReg.toNat ≤ 240)
    (hr : s.retryReg ≠ 0#8) (hf : tunable s f) :
    exec .sendReq s = .next
      { transmitted (frameOnAir s s.destReg (nextPid s) 0#16 (payloadOf s)) .req f (requestCopied (nextPid s) s) with
        eng := .awTx
        timerArmed := true } := by
  have hrun := startAttempt_run (s := { requestCopied (nextPid s) s with attempt := 0#8 }) (payloadOf_length_le hp)
    ((tunable_congr rfl rfl).mpr hf)
  rw [exec_sendReq_of_attempts ha hp hr, hrun]
  rfl

theorem exec_sendReq_of_resyncFails {s : State} {c : PeFault} (ha : sendAccepted s) (hp : s.plenReg.toNat ≤ 240)
    (hr : s.retryReg ≠ 0#8) (hc : resyncFails s c) :
    exec .sendReq s = .next (faulted c (hopRead (loaded (frameOnAir s s.destReg (nextPid s) 0#16 (payloadOf s)) .req
      (stoodBy (requestCopied (nextPid s) s))))) := by
  have hends := startAttempt_fails (s := { requestCopied (nextPid s) s with attempt := 0#8 }) (payloadOf_length_le hp)
    ((resyncFails_congr rfl rfl).mpr hc)
  rw [exec_sendReq_of_attempts ha hp hr, hends]
  rfl

/-! ### The sends that do not wait (R116, R117) -/

/-- The packet_id of a host Acknowledge or Broadcast, and the draw it takes. -/
theorem hostPid_cases (s : State) : ∃ n, (s.cfg.hostPid = .zero → hostPid s = 0#16 ∧ n = 0) ∧
    (s.cfg.hostPid = .draw → hostPid s ≠ 0#16 ∧ n = 1) ∧ takeHostPid s = { s with draws := s.draws + n } := by
  cases h : s.cfg.hostPid with
  | zero => exact ⟨0, fun _ => ⟨by simp only [hostPid, h], rfl⟩, nofun, by simp only [takeHostPid, h]; rfl⟩
  | draw =>
    refine ⟨1, nofun, fun _ => ⟨?_, rfl⟩, by simp only [takeHostPid, h]; rfl⟩
    simpa only [hostPid, h] using nextPid_ne_zero s

/-- An accepted one-way send that fits is the one frame of its kind. -/
theorem sendOnce_of_accepted {s : State} (k : Kind) (ha : sendAccepted s) (hp : s.plenReg.toNat ≤ 240) :
    ((sendCheck s).andThen (checkSize (sendOnce k))).outcome = (sendOnce k s).outcome := by
  rw [sendCheck_accepted ha, Flow.andThen_run, checkSize_fits _ hp]

theorem exec_sendAck_of_accepted {s : State} (ha : sendAccepted s) (hp : s.plenReg.toNat ≤ 240) :
    exec .sendAck s = (sendOnce .ack s).outcome := sendOnce_of_accepted .ack ha hp

theorem exec_sendBcast_of_accepted {s : State} (ha : sendAccepted s) (hp : s.plenReg.toNat ≤ 240) :
    exec .sendBcast s = (sendOnce .bcast s).outcome := sendOnce_of_accepted .bcast ha hp

/-! ### The retry (R133) -/

theorem exec_timerRetry_of_tunable {s : State} {f : BitVec 32} (h : s.reqPayload.length ≤ 240) (hf : tunable s f) :
    exec .timerRetry s = .next
      { transmitted (frameOnAir s s.reqDst s.outPid 0#16 s.reqPayload) .req f { s with attempt := s.attempt + 1#8 } with
        eng := .awTx
        timerArmed := true } := congrArg Flow.outcome (startAttempt_run h hf)

theorem exec_timerRetry_of_resyncFails {s : State} {c : PeFault} (h : s.reqPayload.length ≤ 240) (hc : resyncFails s c) :
    exec .timerRetry s = .next (faulted c (hopRead (loaded (frameOnAir s s.reqDst s.outPid 0#16 s.reqPayload) .req
      (stoodBy { s with attempt := s.attempt + 1#8 })))) := congrArg Flow.outcome (startAttempt_fails h hc)

/-! ### The auto-ack (R125 to R127) -/

theorem exec_rxReq_of_addressed {s : State} {p : Packet} (hd : decodeFrame s.cfg.hdrOrder s.radio.rxFrame = some p)
    (hp : p.dst = s.cfg.nodeId) : exec .rxReq s = (answerRequest p s).outcome := by
  change execRxReq s = _
  simp only [execRxReq, withPacket, hd, receiveRequest, if_pos hp]

theorem exec_rxReq_of_tunable {s : State} {p : Packet} {f : BitVec 32}
    (hd : decodeFrame s.cfg.hdrOrder s.radio.rxFrame = some p) (hp : p.dst = s.cfg.nodeId) (hf : tunable s f) :
    exec .rxReq s = .next (queued (delivered .requestReceived p.payload s)
      (transmitted (frameOnAir s p.src p.pid 1#16 []) .ack f (measured s))) := by
  have hsend := sendFrame_of_tunable (s := measured s) (dst := p.src) (pid := p.pid) (kind := .ack) (payload := [])
    (Nat.zero_le _) ((tunable_congr rfl rfl).mpr hf)
  rw [exec_rxReq_of_addressed hd hp, answerRequest, readLinkQuality_eq, hsend, deliveredRecord_eq]
  rfl

theorem exec_rxReq_of_resyncFails {s : State} {p : Packet} {c : PeFault}
    (hd : decodeFrame s.cfg.hdrOrder s.radio.rxFrame = some p) (hp : p.dst = s.cfg.nodeId) (hc : resyncFails s c) :
    exec .rxReq s =
      .next (faulted c (hopRead (loaded (frameOnAir s p.src p.pid 1#16 []) .ack (stoodBy (measured s))))) := by
  have hsend := sendFrame_of_fails (s := measured s) (dst := p.src) (pid := p.pid) (kind := .ack) (payload := [])
    (Nat.zero_le _) ((resyncFails_congr rfl rfl).mpr hc)
  rw [exec_rxReq_of_addressed hd hp, answerRequest, readLinkQuality_eq, hsend]
  rfl

end Sys2Proof.Machine

namespace Sys2Proof.Proofs

open Sys2Proof.Machine Sys2Proof.Claims

/-- Settles O28. -/
theorem sendWhileBusyIsCallerError : Obligations.SendWhileBusyIsCallerError :=
  fun _ _ hi hbusy => exec_send_of_refused hi (not_sendAccepted_of_busy hbusy)

/-- Settles O29: with no attempt to make, `abandonAtOnce` follows the copy. -/
theorem requestWithoutAttemptsEndsAtOnce : Obligations.RequestWithoutAttemptsEndsAtOnce := by
  intro s ha hp hr
  rw [exec_sendReq_of_accepted ha hp, copyRequest_eq, acceptRequest, if_pos hr, hr]
  rfl

/-- Settles O30: the packet_id is the next draw. -/
theorem acceptedRequestIsTransmitted : Obligations.AcceptedRequestIsTransmitted :=
  fun s _ ha hp hr hf => ⟨nextPid s, nextPid_ne_zero s, exec_sendReq_of_tunable ha hp hr hf⟩

/-- Settles O31. -/
theorem acceptedAckOrBroadcastIsTransmitted : Obligations.AcceptedAckOrBroadcastIsTransmitted := by
  intro s f ha hp hf
  obtain ⟨n, hzero, hdraw, htake⟩ := hostPid_cases s
  refine ⟨hostPid s, n, hzero, hdraw, ?_, ?_⟩
  · rw [exec_sendAck_of_accepted ha hp, sendOnce_run hp hf, htake]
    rfl
  · rw [exec_sendBcast_of_accepted ha hp, sendOnce_run hp hf, htake]
    rfl

/-- Settles O32: each transmission ends in the state that `sendFrame` leaves at the fault. -/
theorem resyncFaultInsideSendKeepsEarlierWrites : Obligations.ResyncFaultInsideSendKeepsEarlierWrites := by
  refine fun s c hc => ⟨fun ha hp => ⟨fun hr => ?request, ?oneWay⟩, fun hp => exec_timerRetry_of_resyncFails hp hc,
    fun p hd hp => exec_rxReq_of_resyncFails hd hp hc⟩
  case request => exact ⟨nextPid s, nextPid_ne_zero s, exec_sendReq_of_resyncFails ha hp hr hc⟩
  case oneWay =>
    obtain ⟨n, hzero, hdraw, htake⟩ := hostPid_cases s
    refine ⟨hostPid s, n, hzero, hdraw, ?_, ?_⟩
    · rw [exec_sendAck_of_accepted ha hp, sendOnce_fails hp hc, htake]
      rfl
    · rw [exec_sendBcast_of_accepted ha hp, sendOnce_fails hp hc, htake]
      rfl

/-- Settles O37. -/
theorem addressedRequestIsAcknowledgedAndDelivered : Obligations.AddressedRequestIsAcknowledgedAndDelivered :=
  fun _ _ _ hd hp hf => exec_rxReq_of_tunable hd hp hf

/-- Settles O43. -/
theorem retryTransmitsTheSameRequest : Obligations.RetryTransmitsTheSameRequest :=
  fun _ _ hp hf => exec_timerRetry_of_tunable hp hf

end Sys2Proof.Proofs
end

section
/-! SUPPORT. The handlers that end in listening (R120, R123, R124, R128 to R131), whether `rx_resume()` completes or a resync fault
ends it; with the settling of the statements on them. -/

namespace Sys2Proof.Machine

open Sys2Proof.Claims

theorem rxResume_of_resumable {s : State} {f : BitVec 32} (h : resumable s f) :
    (rxResume s).outcome = .next (resumed f s) := congrArg Flow.outcome (setMode_rxc_of_resumable h)

theorem rxResume_of_resumeFails {s : State} {c : PeFault} (h : resumeFails s c) :
    (rxResume s).outcome = .next (faulted c (hopRead s)) := congrArg Flow.outcome (setMode_rxc_of_resumeFails h)

/-! ### TXDONE.REQ (R120) -/

theorem exec_txdoneReq_of_resumable {s : State} {f : BitVec 32} (h : resumable s f) :
    exec .txdoneReq s = .next { resumed f s with
      evq := if s.cfg.txcOnRequest = true then s.evq ++ [⟨.transmitComplete, [], 0#8, 0#16⟩] else s.evq
      eng := if s.eng = .awTx ∧ s.opKind = some .req then .awAck else s.eng } := by
  change execTxdoneReq s = _
  rw [execTxdoneReq, setMode_rxc_of_resumable h, Flow.andThen_run, Flow.outcome_run, advanceEng_eq, requestTxRecord_eq]
  simp only [resumed_cfg, resumed_evq, resumed_eng, resumed_opKind]

theorem exec_txdoneReq_of_resumeFails {s : State} {c : PeFault} (h : resumeFails s c) :
    exec .txdoneReq s = .next (faulted c (hopRead s)) := by
  change execTxdoneReq s = _
  rw [execTxdoneReq, setMode_rxc_of_resumeFails h, Flow.andThen_ended, Flow.outcome_ended]

/-- IRQ.TXDONE with a Request in flight runs TXDONE.REQ. -/
theorem exec_irqTxdone_of_request {s : State} (hk : s.curKind = some .req) (snap : Byte) :
    exec (.irqTxdone snap) s = exec .txdoneReq { s with snap := snap } := by
  obtain ⟨handler, hd, hrun⟩ := exec_irqTxdone_eq_handler snap s
  rw [curKindWord, hk] at hd
  cases hd
  exact hrun

/-! ### Received frames (R125, R128, R129) -/

theorem exec_rxReq_of_other {s : State} {p : Packet} (hd : decodeFrame s.cfg.hdrOrder s.radio.rxFrame = some p)
    (hp : p.dst ≠ s.cfg.nodeId) : exec .rxReq s = (rxResume s).outcome := by
  change execRxReq s = _
  simp only [execRxReq, withPacket, hd, receiveRequest, if_neg hp]

theorem exec_rxAck_of_other {s : State} {p : Packet} (hd : decodeFrame s.cfg.hdrOrder s.radio.rxFrame = some p)
    (hp : p.pid ≠ s.outPid) : exec .rxAck s = (rxResume s).outcome := by
  change execRxAck s = _
  simp only [execRxAck, withPacket, hd, receiveAck, if_neg hp]

/-- A matching Acknowledge stands the node by before it settles the request. -/
theorem exec_rxAck_of_match {s : State} {p : Packet} (hd : decodeFrame s.cfg.hdrOrder s.radio.rxFrame = some p)
    (hp : p.pid = s.outPid) :
    exec .rxAck s = .next (settleRequest { stoodBy { s with outPid := 0#16 } with avail := true }) := by
  change execRxAck s = _
  simp only [execRxAck, withPacket, hd, receiveAck, if_pos hp, setMode_standby, Flow.andThen_run, Flow.outcome_run]

theorem exec_rxBcast_of_decoded {s : State} {p : Packet} (hd : decodeFrame s.cfg.hdrOrder s.radio.rxFrame = some p) :
    exec .rxBcast s = (rxResume (queued (delivered .broadcastReceived p.payload s) (measured s))).outcome := by
  change execRxBcast s = _
  simp only [execRxBcast, withPacket, hd, receiveBroadcast, readLinkQuality_eq, deliveredRecord_eq]
  rfl

/-- IRQ.RXDONE reads a frame of kind 2 and runs RX.BCAST. -/
theorem exec_irqRxdone_of_broadcast {s : State} {snap : Byte} {p : Packet} (hcrc : flagSet snap s.cfg.irqBits.crc = false)
    (hd : decodeFrame s.cfg.hdrOrder s.radio.rxFrame = some p) (hk : p.kind = 2#16) :
    exec (.irqRxdone snap) s = exec .rxBcast (frameRead snap s) := by
  rw [exec_irqRxdone_of_crcClear hcrc, frameHandler_of_decoded (s := frameRead snap s) hd, hk]
  rfl

end Sys2Proof.Machine

namespace Sys2Proof.Proofs

open Sys2Proof.Machine Sys2Proof.Claims

/-- Settles O33. -/
theorem txdoneOfRequestListens : Obligations.TxdoneOfRequestListens := by
  refine ⟨fun s c hfails => exec_txdoneReq_of_resumeFails hfails, fun s f snap hf => ?_⟩
  intro after
  refine ⟨?handler, fun hk => ?branch⟩
  case handler => exact exec_txdoneReq_of_resumable hf
  case branch =>
    have hf' : resumable { s with snap := snap } f := (resumable_congr rfl rfl rfl).mpr hf
    rw [exec_irqTxdone_of_request hk]
    exact exec_txdoneReq_of_resumable hf'

/-- Settles O35: the log entry changes nothing that `rx_resume()` looks at. -/
theorem droppedFramesAreLoggedAndListeningResumes : Obligations.DroppedFramesAreLoggedAndListeningResumes := by
  refine ⟨fun s c hfails => ?fails, fun s f hf => ?resumes⟩
  case fails =>
    have hlogged (code : LogCode) (n : Nat) : (rxResume (logged code n s)).outcome = .next (faulted c (hopRead (logged code n s))) :=
      rxResume_of_resumeFails ((resumeFails_congr rfl rfl rfl).mpr hfails)
    exact ⟨fun _ => hlogged _ _, fun _ => hlogged _ _, fun _ => hlogged _ _⟩
  case resumes =>
    have hlogged (code : LogCode) (n : Nat) : (rxResume (logged code n s)).outcome = .next (resumed f (logged code n s)) :=
      rxResume_of_resumable ((resumable_congr rfl rfl rfl).mpr hf)
    exact ⟨fun _ => hlogged _ _, fun _ => hlogged _ _, fun _ => hlogged _ _⟩

/-- Settles O36, by the statement on RX.CRCERR, the one handler a CRC error selects. -/
theorem crcErrorIsNeverDelivered : Obligations.CrcErrorIsNeverDelivered := by
  obtain ⟨dropped_fails, dropped_resumes⟩ := droppedFramesAreLoggedAndListeningResumes
  refine fun s snap hcrc => ⟨fun f hf => ?_, fun c hfails => ?_⟩ <;> rw [exec_irqRxdone_of_crcError hcrc 0#17]
  · have hf' : resumable { s with snap := snap } f := (resumable_congr rfl rfl rfl).mpr hf
    exact (dropped_resumes _ f hf').1 0#17
  · have hfails' : resumeFails { s with snap := snap } c := (resumeFails_congr rfl rfl rfl).mpr hfails
    exact (dropped_fails _ c hfails').1 0#17

/-- Settles O38. -/
theorem matchingAcknowledgeEndsTheRequest : Obligations.MatchingAcknowledgeEndsTheRequest := by
  intro s p hd hp
  rw [exec_rxAck_of_match hd hp, settleRequest_eq]
  simp only [stoodBy_opKind, stoodBy_eng]

/-- Settles O39. -/
theorem framesForOthersAreIgnored : Obligations.FramesForOthersAreIgnored := by
  refine fun s p hd => ⟨fun f hf => ⟨fun hp => ?_, fun hp => ?_⟩, fun c hfails => ⟨fun hp => ?_, fun hp => ?_⟩⟩
  · rw [exec_rxReq_of_other hd hp, rxResume_of_resumable hf]
  · rw [exec_rxAck_of_other hd hp, rxResume_of_resumable hf]
  · rw [exec_rxReq_of_other hd hp, rxResume_of_resumeFails hfails]
  · rw [exec_rxAck_of_other hd hp, rxResume_of_resumeFails hfails]

/-- Settles O40: the record and the two reads change nothing that `rx_resume()` looks at. -/
theorem broadcastIsDelivered : Obligations.BroadcastIsDelivered := by
  refine ⟨fun s c p hd hfails => ?fails, fun s f p hd hf => ?delivers⟩
  case fails =>
    rw [exec_rxBcast_of_decoded hd]
    exact rxResume_of_resumeFails ((resumeFails_congr rfl rfl rfl).mpr hfails)
  case delivers =>
    intro after
    have hrun (u : State) (hu : decodeFrame u.cfg.hdrOrder u.radio.rxFrame = some p) (hfu : resumable u f) :
        exec .rxBcast u = .next (after u) := by
      rw [exec_rxBcast_of_decoded hu]
      exact rxResume_of_resumable ((resumable_congr rfl rfl rfl).mpr hfu)
    refine ⟨hrun s hd hf, fun snap hcrc hk => ?_⟩
    rw [exec_irqRxdone_of_broadcast hcrc hd hk]
    exact hrun (frameRead snap s) hd ((resumable_congr rfl rfl rfl).mpr hf)

end Sys2Proof.Proofs
end

section
/-! SUPPORT. The radio's events (R187 to R190): the step of each, enabled or not, and the edges it raises once the lines are
routed; with the settling of the two statements of 60_exceptions.md on them. -/

namespace Sys2Proof.Machine

open Sys2Proof.Claims

/-! ### When an event is enabled (R187 to R189) -/

theorem RadioState.receiving_iff (r : RadioState) : r.receiving = true ↔ r.opmode = 0b101#3 ∨ r.opmode = 0b110#3 := by
  simp only [RadioState.receiving, Bool.or_eq_true, decide_eq_true_eq]
  rfl

/-- A hop is followed by a radio that receives or transmits (R189). -/
theorem hopEnabled_iff (r : RadioState) : (r.receiving || decide (r.opmode = RadioMode.tx.code)) = true ↔
    r.opmode = 0b011#3 ∨ r.opmode = 0b101#3 ∨ r.opmode = 0b110#3 := by
  rw [Bool.or_eq_true, RadioState.receiving_iff, decide_eq_true_eq, or_comm]
  rfl

/-! ### The step of an event -/

theorem step_radioTxDone {s : State} {rest : List Event} (hs : s.script = .radioTxDone :: rest)
    (h : s.radio.transmitting = true) :
    step s = .next (radioEvent (s.radio.txDone s.cfg.irqBits) { s with script := rest }) :=
  step_of_fetch_done hs (congrArg Fetched.done (if_pos h))

theorem step_radioTxDone_disabled {s : State} {rest : List Event} (hs : s.script = .radioTxDone :: rest)
    (h : s.radio.transmitting = false) : step s = .next { s with script := rest } :=
  step_of_fetch_done hs (congrArg Fetched.done (if_neg (Bool.eq_false_iff.mp h)))

theorem step_radioRxDone {s : State} {frame : List Byte} {crcErr : Bool} {snr rssi : Byte} {rest : List Event}
    (hs : s.script = .radioRxDone frame crcErr snr rssi :: rest) (hlen : frame.length ≤ 255) (h : s.radio.receiving = true) :
    step s = .next (radioEvent (s.radio.rxDone s.cfg.irqBits frame crcErr snr rssi) { s with script := rest }) := by
  have henabled : (s.radio.receiving && decide (frame.length ≤ 255)) = true := by rw [h, decide_eq_true hlen]; rfl
  exact step_of_fetch_done hs (congrArg Fetched.done (if_pos henabled))

theorem step_radioHop {s : State} {ch : Byte} {rest : List Event} (hs : s.script = .radioHop ch :: rest)
    (h : s.radio.opmode = 0b011#3 ∨ s.radio.opmode = 0b101#3 ∨ s.radio.opmode = 0b110#3) :
    step s = .next (radioEvent { s.radio with hopCh := ch, irq := s.radio.irq ||| IrqBits.mask s.cfg.irqBits.hop }
      { s with script := rest }) :=
  step_of_fetch_done hs (congrArg Fetched.done (if_pos ((hopEnabled_iff s.radio).mpr h)))

theorem step_radioHop_disabled {s : State} {ch : Byte} {rest : List Event} (hs : s.script = .radioHop ch :: rest)
    (h : ¬(s.radio.opmode = 0b011#3 ∨ s.radio.opmode = 0b101#3 ∨ s.radio.opmode = 0b110#3)) :
    step s = .next { s with script := rest } :=
  step_of_fetch_done hs (congrArg Fetched.done (if_neg fun henabled => h ((hopEnabled_iff s.radio).mp henabled)))

theorem step_radioFlag {s : State} {fl : RadioFlag} {rest : List Event} (hs : s.script = .radioFlag fl :: rest) :
    step s = .next (radioEvent { s.radio with irq := s.radio.irq ||| fl.mask } { s with script := rest }) :=
  step_of_fetch_done hs rfl

/-- A radio event writes the radio, the two edges and the count of free values, and nothing else. -/
theorem radioEvent_eq_update (r : RadioState) (s : State) : radioEvent r s =
    { s with
      radio := r
      edge0 := (radioEvent r s).edge0
      edge1 := (radioEvent r s).edge1
      freeUses := s.freeUsesAfter } := rfl

/-- RADIO.FLAG raises no line (R189), where every flag has a bit of its own. -/
theorem radioEvent_flag_edges {s : State} (h : s.cfg.irqBits.distinct) (fl : RadioFlag) :
    (radioEvent { s.radio with irq := s.radio.irq ||| fl.mask } s).edge0 = s.edge0 ∧
      (radioEvent { s.radio with irq := s.radio.irq ||| fl.mask } s).edge1 = s.edge1 := by
  constructor
  · change (s.edge0 || risesOnEvent .line0 _ _ s) = s.edge0
    rw [risesOnEvent_flag h, Bool.or_false]
  · change (s.edge1 || risesOnEvent .line1 _ _ s) = s.edge1
    rw [risesOnEvent_flag h, Bool.or_false]

/-! ### The edges of an event once the lines are routed (R190) -/

theorem radioEvent_edge0_of_routed {s : State} (h : s.route.line0 ≠ .unknown) (r : RadioState) :
    (radioEvent r s).edge0 = (s.edge0 || (!lineLevel s.cfg.irqBits .line0 s.radio.dio s.radio.irq &&
      lineLevel s.cfg.irqBits .line0 r.dio r.irq)) := by
  rw [← risesOnEvent_routed h]
  rfl

theorem radioEvent_edge1_of_routed {s : State} (h : s.route.line0 ≠ .unknown) (r : RadioState) :
    (radioEvent r s).edge1 = (s.edge1 || (!lineLevel s.cfg.irqBits .line1 s.radio.dio s.radio.irq &&
      lineLevel s.cfg.irqBits .line1 r.dio r.irq)) := by
  rw [← risesOnEvent_routed h]
  rfl

/-- Line 0 rises on TxDone exactly when it is mapped to it and the flag was clear. -/
theorem line0_rises_of_txDone_set {b : IrqBits} {dio irq irq' : Byte} (htx : irq'.getLsbD b.txDone = true)
    (hrx : irq'.getLsbD b.rxDone = irq.getLsbD b.rxDone) :
    (!lineLevel b .line0 dio irq && lineLevel b .line0 dio irq') =
      (decide (dio.toNat / 64 = 1) && !irq.getLsbD b.txDone) := by
  rw [lineLevel_line0, lineLevel_line0, htx, hrx]
  by_cases h0 : dio.toNat / 64 = 0
  · simp only [h0, if_true, Bool.not_and_self]; rfl
  by_cases h1 : dio.toNat / 64 = 1
  · simp [h1]
  · simp [h0, h1]

/-- Line 0 rises on RxDone exactly when it is mapped to it and the flag was clear. -/
theorem line0_rises_of_rxDone_set {b : IrqBits} {dio irq irq' : Byte} (hrx : irq'.getLsbD b.rxDone = true)
    (htx : irq'.getLsbD b.txDone = irq.getLsbD b.txDone) :
    (!lineLevel b .line0 dio irq && lineLevel b .line0 dio irq') =
      (decide (dio.toNat / 64 = 0) && !irq.getLsbD b.rxDone) := by
  rw [lineLevel_line0, lineLevel_line0, hrx, htx]
  by_cases h0 : dio.toNat / 64 = 0
  · simp [h0]
  · simp only [h0, if_false, Bool.not_and_self, decide_false, Bool.false_and]

theorem line1_rises_of_hop_set {b : IrqBits} {dio irq irq' : Byte} (hhop : irq'.getLsbD b.hop = true) :
    (!lineLevel b .line1 dio irq && lineLevel b .line1 dio irq') =
      (decide (dio.toNat / 16 % 4 = 1) && !irq.getLsbD b.hop) := by
  rw [lineLevel_line1, lineLevel_line1, hhop]
  by_cases h1 : dio.toNat / 16 % 4 = 1
  · simp [h1]
  · simp [h1]

/-- A line whose flags an event leaves alone does not rise. -/
theorem line0_stays {b : IrqBits} {dio irq irq' : Byte} (htx : irq'.getLsbD b.txDone = irq.getLsbD b.txDone)
    (hrx : irq'.getLsbD b.rxDone = irq.getLsbD b.rxDone) :
    (!lineLevel b .line0 dio irq && lineLevel b .line0 dio irq') = false := by
  rw [lineLevel_line0, lineLevel_line0, htx, hrx, Bool.not_and_self]

theorem line1_stays {b : IrqBits} {dio irq irq' : Byte} (hhop : irq'.getLsbD b.hop = irq.getLsbD b.hop) :
    (!lineLevel b .line1 dio irq && lineLevel b .line1 dio irq') = false := by
  rw [lineLevel_line1, lineLevel_line1, hhop, Bool.not_and_self]

/-! ### The flags an event sets (R65, R187 to R189) -/

theorem getLsbD_or_mask_same (irq : Byte) (bit : Fin 8) : (irq ||| IrqBits.mask bit).getLsbD bit = true := by
  rw [BitVec.getLsbD_or, getLsbD_mask, decide_eq_true rfl, Bool.or_true]

theorem getLsbD_or_mask_other (irq : Byte) {bit other : Fin 8} (h : bit ≠ other) :
    (irq ||| IrqBits.mask bit).getLsbD other = irq.getLsbD other := by
  rw [BitVec.getLsbD_or, getLsbD_mask, decide_eq_false h, Bool.or_false]

/-- A reception sets ValidHeader (bit 4), RxDone and, on a failed check, the CRC error. -/
theorem getLsbD_or_rxFlags (b : IrqBits) (irq : Byte) (crcErr : Bool) (bit : Fin 8) :
    (irq ||| rxFlags b crcErr).getLsbD bit =
      (irq.getLsbD bit || (decide (4 = bit) || decide (b.rxDone = bit) || crcErr && decide (b.crc = bit))) := by
  have hvalid : 0x10#8 = IrqBits.mask 4 := by decide
  cases crcErr <;>
    simp only [rxFlags, hvalid, BitVec.getLsbD_or, getLsbD_mask, if_true, Bool.false_eq_true, if_false,
      BitVec.getLsbD_zero, Bool.true_and, Bool.false_and]

theorem getLsbD_or_rxFlags_rxDone (b : IrqBits) (irq : Byte) (crcErr : Bool) :
    (irq ||| rxFlags b crcErr).getLsbD b.rxDone = true := by
  rw [getLsbD_or_rxFlags, decide_eq_true (rfl : b.rxDone = b.rxDone)]
  simp only [Bool.or_true, Bool.true_or]

theorem getLsbD_or_rxFlags_other {b : IrqBits} (irq : Byte) (crcErr : Bool) {bit : Fin 8} (h4 : 4 ≠ bit)
    (hrx : b.rxDone ≠ bit) (hcrc : b.crc ≠ bit) : (irq ||| rxFlags b crcErr).getLsbD bit = irq.getLsbD bit := by
  rw [getLsbD_or_rxFlags, decide_eq_false h4, decide_eq_false hrx, decide_eq_false hcrc]
  simp only [Bool.and_false, Bool.or_false]

/-- The bits a line may show differ from each other and from the other flags of a reception. -/
structure RoutedBitsApart (b : IrqBits) : Prop where
  txDone_rxDone : b.txDone ≠ b.rxDone
  txDone_hop : b.txDone ≠ b.hop
  rxDone_hop : b.rxDone ≠ b.hop
  crc_txDone : b.crc ≠ b.txDone
  crc_hop : b.crc ≠ b.hop
  validHeader_txDone : 4 ≠ b.txDone
  validHeader_hop : 4 ≠ b.hop

theorem routedBitsApart {b : IrqBits} (h : b.distinct) : RoutedBitsApart b := by
  simp only [IrqBits.distinct, List.nodup_cons, List.mem_cons, not_or] at h
  obtain ⟨⟨htxrx, htxhop, htxcrc, -, htx4, -⟩, ⟨hrxhop, -⟩, ⟨hhopcrc, -, hhop4, -⟩, -⟩ := h
  exact ⟨htxrx, htxhop, hrxhop, Ne.symm htxcrc, Ne.symm hhopcrc, Ne.symm htx4, Ne.symm hhop4⟩

end Sys2Proof.Machine

namespace Sys2Proof.Proofs

open Sys2Proof.Machine Sys2Proof.Claims

/-- Settles O46, event by event. -/
theorem radioEventsChangeTheRadio : Obligations.RadioEventsChangeTheRadio := by
  intro s rest hdistinct b
  refine ⟨fun hs => ⟨fun htx => ?txDone, fun htx => step_radioTxDone_disabled hs htx⟩,
    fun frame crcErr snr rssi hs => ⟨fun hlen hmode => ?rxDone, fun hrxc hrxs => ?notReceiving⟩,
    fun ch hs => ⟨fun hmode => ?hop, fun htx hrxc hrxs => ?notHopping⟩, fun fl hs => ?flag⟩
  case txDone =>
    rw [step_radioTxDone hs htx, oneBit_eq]
    exact ⟨_, _, _, rfl⟩
  case rxDone =>
    have hirq : s.radio.irq ||| rxFlags b crcErr =
        s.radio.irq ||| 0x10#8 ||| oneBit b.rxDone ||| (if crcErr then oneBit b.crc else 0x00#8) := by
      rw [oneBit_eq, oneBit_eq, rxFlags, BitVec.or_assoc, BitVec.or_assoc, BitVec.or_assoc]
    rw [step_radioRxDone hs hlen ((RadioState.receiving_iff _).mpr hmode), ← hirq]
    exact ⟨_, _, _, rfl⟩
  case notReceiving =>
    have hidle : s.radio.receiving = false :=
      Bool.eq_false_iff.mpr fun h => ((RadioState.receiving_iff _).mp h).elim hrxc hrxs
    exact step_radioRxDone_disabled hs hidle
  case hop =>
    rw [step_radioHop hs hmode, oneBit_eq]
    exact ⟨_, _, _, rfl⟩
  case notHopping => exact step_radioHop_disabled hs fun h => h.elim htx fun h => h.elim hrxc hrxs
  case flag =>
    obtain ⟨hedge0, hedge1⟩ := radioEvent_flag_edges (s := { s with script := rest }) hdistinct fl
    refine ⟨State.freeUsesAfter { s with script := rest }, ?_⟩
    rw [step_radioFlag hs, radioEvent_eq_update, hedge0, hedge1]
    cases fl <;> rfl

/-- Settles O47: an event sets its own flag and no other that a line shows. -/
theorem radioEventsRaiseEdges : Obligations.RadioEventsRaiseEdges := by
  intro s t e rest hdistinct hs hrouted h b
  obtain ⟨htxrx, htxhop, hrxhop, hcrctx, hcrchop, h4tx, h4hop⟩ := routedBitsApart hdistinct
  have hknown : ({ s with script := rest } : State).route.line0 ≠ .unknown := hrouted
  refine ⟨fun he htx => ?txDone, fun frame crcErr snr rssi he hlen hmode => ?rxDone, fun ch he hmode => ?hop,
    fun fl he => ?flag⟩
  all_goals subst he
  case txDone =>
    cases (step_radioTxDone hs htx).symm.trans h
    rw [radioEvent_edge0_of_routed hknown, radioEvent_edge1_of_routed hknown]
    rw [flagSet_eq]
    constructor
    · exact congrArg (s.edge0 || ·) (line0_rises_of_txDone_set (getLsbD_or_mask_same _ _) (getLsbD_or_mask_other _ htxrx))
    · exact (congrArg (s.edge1 || ·) (line1_stays (getLsbD_or_mask_other _ htxhop))).trans (Bool.or_false _)
  case rxDone =>
    cases (step_radioRxDone hs hlen ((RadioState.receiving_iff _).mpr hmode)).symm.trans h
    rw [radioEvent_edge0_of_routed hknown, radioEvent_edge1_of_routed hknown]
    rw [flagSet_eq]
    constructor
    · exact congrArg (s.edge0 || ·) (line0_rises_of_rxDone_set (getLsbD_or_rxFlags_rxDone _ _ _)
        (getLsbD_or_rxFlags_other _ _ h4tx htxrx.symm hcrctx))
    · exact (congrArg (s.edge1 || ·) (line1_stays (getLsbD_or_rxFlags_other _ _ h4hop hrxhop hcrchop))).trans
        (Bool.or_false _)
  case hop =>
    cases (step_radioHop hs hmode).symm.trans h
    rw [radioEvent_edge0_of_routed hknown, radioEvent_edge1_of_routed hknown]
    rw [flagSet_eq]
    constructor
    · exact congrArg (s.edge1 || ·) (line1_rises_of_hop_set (getLsbD_or_mask_same _ _))
    · exact (congrArg (s.edge0 || ·) (line0_stays (getLsbD_or_mask_other _ htxhop.symm)
        (getLsbD_or_mask_other _ hrxhop.symm))).trans (Bool.or_false _)
  case flag =>
    cases (step_radioFlag hs).symm.trans h
    exact radioEvent_flag_edges (s := { s with script := rest }) hdistinct fl

end Sys2Proof.Proofs
end
